-- ==== Sys2Proof/Word.lean ====
section
/-! DEFINITION. The words of the block: the bytes, request words and samples of the notation of
spec/00_scope.md section 6. Bit 0 is the least significant bit of each. -/

namespace Sys2Proof

/-- `u8`: a register byte, a command byte, a sample byte, a field code at a port. -/
abbrev Byte := BitVec 8

/-- `u16`: a request word (30_encoding.md R68). -/
abbrev RequestWord := BitVec 16

/-- `u24`: a conversion result as it stands on the wire (20_memory.md R43). -/
abbrev Raw24 := BitVec 24

/-- `i32`: the decoded sample, and the 32-bit response data. Its signed reading is `BitVec.toInt`. -/
abbrev Word32 := BitVec 32

end Sys2Proof
end

