-- ==== Sys2Proof/Syntax.lean ====
section
/-! DEFINITION. The operations of the block: one constructor of `Instr` for each of the 26 rows of
spec/opcode_table.json (30_encoding.md R76), the four configuration registers (00_scope.md R2) and
the fifteen bit-fields (10_state.md R22). -/

namespace Sys2Proof

/-- The four configuration registers, the image bytes `IMG[0..3]` (00_scope.md R2, 10_state.md R11). -/
inductive Reg where
  | config0
  | config1
  | config2
  | config3
deriving DecidableEq, Repr

/-- The fifteen bit-fields, in the order of their ids (10_state.md R22). -/
inductive BitField where
  | mux
  | pgaGain
  | pgaBypass
  | dr
  | mode
  | cm
  | ts
  | bcs
  | vref
  | filter
  | psw
  | idac
  | i1mux
  | i2mux
  | drdym
deriving DecidableEq, Repr

/-- The operations. The six `cmd…` rows are the wire commands, each built by the CMD function of its
row (R110 to R115); `addr` and `count` are the 8-bit operands of the CMD ports (10_state.md R30), so
that a value outside the domain can be presented and rejected (41_command_encoder.md R116). The other
twenty are the requests of 30_encoding.md R69; `code` is the raw code `ARG` of a setter. -/
inductive Instr where
  | cmdReset
  | cmdStart
  | cmdPowerdown
  | cmdRdata
  | cmdRreg (addr count : Byte)
  | cmdWreg (addr count : Byte)
  | reset
  | start
  | powerdown
  | rdata
  | rreg (r : Reg)
  | setfMux (code : Byte)
  | setfPgaGain (code : Byte)
  | setfPgaBypass (code : Byte)
  | setfDr (code : Byte)
  | setfMode (code : Byte)
  | setfCm (code : Byte)
  | setfTs (code : Byte)
  | setfBcs (code : Byte)
  | setfVref (code : Byte)
  | setfFilter (code : Byte)
  | setfPsw (code : Byte)
  | setfIdac (code : Byte)
  | setfI1mux (code : Byte)
  | setfI2mux (code : Byte)
  | setfDrdym (code : Byte)
deriving DecidableEq, Repr

end Sys2Proof
end

