-- ==== Sys2Proof/Machine/Operands.lean ====
section
/-! DEFINITION. The operands of the operations: register addresses (10_state.md R11, 20_memory.md
R40), field ids and the bit-field descriptor table `REG`, `OFF`, `W`, `MASK` (10_state.md R22), the
setter of a field (30_encoding.md R70) and the classification of the operations (43_operations.md
R156). -/

namespace Sys2Proof

/-- The 2-bit register address (10_state.md R11). -/
def Reg.addr : Reg → BitVec 2
  | .config0 => 0
  | .config1 => 1
  | .config2 => 2
  | .config3 => 3

/-- Every 2-bit address names a register (20_memory.md R40). -/
def Reg.ofAddr (a : BitVec 2) : Reg :=
  if a = 0 then .config0 else if a = 1 then .config1 else if a = 2 then .config2 else .config3

/-- The register address as the 8-bit operand of a CMD port (10_state.md R30). -/
def Reg.addrByte (r : Reg) : Byte := r.addr.setWidth 8

/-- The four registers in address order. -/
def Reg.all : List Reg := [.config0, .config1, .config2, .config3]

/-- The field id `f` (10_state.md R22). -/
def BitField.id : BitField → BitVec 4
  | .mux => 0
  | .pgaGain => 1
  | .pgaBypass => 2
  | .dr => 3
  | .mode => 4
  | .cm => 5
  | .ts => 6
  | .bcs => 7
  | .vref => 8
  | .filter => 9
  | .psw => 10
  | .idac => 11
  | .i1mux => 12
  | .i2mux => 13
  | .drdym => 14

/-- The fifteen fields in the order of their ids (10_state.md R22). -/
def BitField.all : List BitField :=
  [.mux, .pgaGain, .pgaBypass, .dr, .mode, .cm, .ts, .bcs, .vref, .filter, .psw, .idac, .i1mux,
    .i2mux, .drdym]

/-- The field with id `f`; id 15 names no field (30_encoding.md R75). -/
def BitField.ofId (f : BitVec 4) : Option BitField := BitField.all[f.toNat]?

/-- `REG[f]`, the owning register (10_state.md R22). -/
def BitField.reg : BitField → Reg
  | .mux | .pgaGain | .pgaBypass => .config0
  | .dr | .mode | .cm | .ts | .bcs => .config1
  | .vref | .filter | .psw | .idac => .config2
  | .i1mux | .i2mux | .drdym => .config3

/-- `OFF[f]`, the number of the field's least significant bit (10_state.md R22). -/
def BitField.off : BitField → Nat
  | .mux => 4
  | .pgaGain => 1
  | .pgaBypass => 0
  | .dr => 5
  | .mode => 3
  | .cm => 2
  | .ts => 1
  | .bcs => 0
  | .vref => 6
  | .filter => 4
  | .psw => 3
  | .idac => 0
  | .i1mux => 5
  | .i2mux => 2
  | .drdym => 1

/-- `W[f]`, the width in bits (10_state.md R22). -/
def BitField.width : BitField → Nat
  | .mux => 4
  | .pgaGain => 3
  | .pgaBypass => 1
  | .dr => 3
  | .mode => 2
  | .cm => 1
  | .ts => 1
  | .bcs => 1
  | .vref => 2
  | .filter => 2
  | .psw => 1
  | .idac => 3
  | .i1mux => 3
  | .i2mux => 3
  | .drdym => 1

/-- `MASK[f] = ((1 << W[f]) - 1) << OFF[f]` (10_state.md R22). -/
def BitField.mask (f : BitField) : Byte := (1#8 <<< f.width - 1#8) <<< f.off

/-- The request `SETF.f code` (43_operations.md R136): the fifteen setters as one family. -/
def Instr.setter (f : BitField) (code : Byte) : Instr :=
  match f with
  | .mux => .setfMux code
  | .pgaGain => .setfPgaGain code
  | .pgaBypass => .setfPgaBypass code
  | .dr => .setfDr code
  | .mode => .setfMode code
  | .cm => .setfCm code
  | .ts => .setfTs code
  | .bcs => .setfBcs code
  | .vref => .setfVref code
  | .filter => .setfFilter code
  | .psw => .setfPsw code
  | .idac => .setfIdac code
  | .i1mux => .setfI1mux code
  | .i2mux => .setfI2mux code
  | .drdym => .setfDrdym code

/-- The class of an operation (43_operations.md R156); `port` marks the wire rows, which are uses of
a CMD port and no operation of SEQ. -/
inductive OpClass where
  | port
  | load
  | store
  | system
deriving DecidableEq, Repr

/-- Loads, stores and system operations (43_operations.md R156). -/
def Instr.opClass : Instr → OpClass
  | .cmdReset | .cmdStart | .cmdPowerdown | .cmdRdata | .cmdRreg _ _ | .cmdWreg _ _ => .port
  | .reset | .start | .powerdown => .system
  | .rdata | .rreg _ => .load
  | .setfMux _ | .setfPgaGain _ | .setfPgaBypass _ | .setfDr _ | .setfMode _ | .setfCm _
  | .setfTs _ | .setfBcs _ | .setfVref _ | .setfFilter _ | .setfPsw _ | .setfIdac _
  | .setfI1mux _ | .setfI2mux _ | .setfDrdym _ => .store

end Sys2Proof
end

