-- ==== Sys2Proof/Config.lean ====
section
/-! DEFINITION. The implementation parameters of the block (00_scope.md R3): the constants, and the
named parameters `NCODES[f]`, `E` and `IMG_RESET[r]`. -/

namespace Sys2Proof.Config

/-- `NREG`, the number of configuration registers (R3). -/
def nreg : Nat := 4

/-- `MAXCOUNT`, the largest byte count the RREG/WREG encoder accepts (R3). -/
def maxCount : Nat := 4

/-- `OPCOUNT`, the byte count every operation of SEQ uses (R3). -/
def opCount : Byte := 1

/-- `NFIELD`, the number of bit-fields (R3). -/
def nfield : Nat := 15

/-- A setting of the parameter `NCODES[f]`, the number of legal raw codes of each field (R3). Each
number is at most `2^W[f]`, as 30_encoding.md R71 says, so that every legal code fits its field. It is
plain data: the machine takes the setting as an argument in `State.ncodes` (log entry 6). -/
structure NCodes where
  mux : Fin 17
  pgaGain : Fin 9
  pgaBypass : Fin 3
  dr : Fin 9
  mode : Fin 5
  cm : Fin 3
  ts : Fin 3
  bcs : Fin 3
  vref : Fin 5
  filter : Fin 5
  psw : Fin 3
  idac : Fin 9
  i1mux : Fin 9
  i2mux : Fin 9
  drdym : Fin 3
deriving DecidableEq, Repr

/-- The type `E` of the error values of the SPI transaction primitive (R3, decision D12). The block
never inspects a value of it. DESIGN CHOICE, log entry 7, safe: the natural numbers stand for any
countable set of error values. -/
abbrev E := Nat

/-- `IMG_RESET[r]`, the reset value of image byte `r` (R3, 10_state.md R24). -/
def imgReset : Reg → Byte := fun _ => 0x00#8

end Sys2Proof.Config
end

