-- ==== Sys2Proof/Machine/Domain.lean ====
section
/-! DEFINITION. The domains of the operands: the addresses and counts of the register-transfer
commands, and the legal codes of a field under a setting of `NCODES`. The codec, the command encoder,
the decoder and the check of well-formedness share them. -/

namespace Sys2Proof

/-- `NCODES[f]` (00_scope.md R3). -/
def Config.NCodes.of (nc : Config.NCodes) : BitField → Nat
  | .mux => nc.mux
  | .pgaGain => nc.pgaGain
  | .pgaBypass => nc.pgaBypass
  | .dr => nc.dr
  | .mode => nc.mode
  | .cm => nc.cm
  | .ts => nc.ts
  | .bcs => nc.bcs
  | .vref => nc.vref
  | .filter => nc.filter
  | .psw => nc.psw
  | .idac => nc.idac
  | .i1mux => nc.i1mux
  | .i2mux => nc.i2mux
  | .drdym => nc.drdym

/-- The default `NCODES[f] = 2^W[f]`, indexed by field id (00_scope.md R3,
93_implementation_defined.md GK3). -/
def Config.ncodesDefault : Config.NCodes := ⟨16, 8, 2, 8, 4, 2, 2, 2, 4, 4, 2, 8, 8, 8, 2⟩

/-- The other setting the spec writes out, in which the highest code of MUX, DR, MODE, I1MUX and
I2MUX is not legal (93_implementation_defined.md GK3). -/
def Config.ncodesDatasheet : Config.NCodes := ⟨15, 8, 2, 7, 3, 2, 2, 2, 4, 4, 2, 8, 7, 7, 2⟩

/-- The domain of `ENC_RREG` and `ENC_WREG`: address 0 to 3 and count 1 to 4, checked separately
(41_command_encoder.md R114, R116). -/
def commandDomain (addr count : Byte) : Bool :=
  addr.toNat < Config.nreg && 1 ≤ count.toNat && count.toNat ≤ Config.maxCount

/-- A raw code is legal for a field (30_encoding.md R71). -/
def legalCode (nc : Config.NCodes) (f : BitField) (code : Byte) : Bool := code.toNat < nc.of f

end Sys2Proof
end

