-- ==== Sys2Proof/WellFormed.lean ====
section
/-! DEFINITION. Which operations are well formed: the operands an encoding admits. An ill-formed one
still has its meaning (an invalid output of a CMD port, an InvalidArgument response); it has no
word. -/

namespace Sys2Proof

/-- Operands within the domain of the operation, under a setting of `NCODES` (30_encoding.md R63,
R69). -/
def Instr.wf (nc : Config.NCodes) : Instr → Bool
  | .cmdReset | .cmdStart | .cmdPowerdown | .cmdRdata => true
  | .cmdRreg addr count => commandDomain addr count
  | .cmdWreg addr count => commandDomain addr count
  | .reset | .start | .powerdown | .rdata | .rreg _ => true
  | .setfMux code => legalCode nc .mux code
  | .setfPgaGain code => legalCode nc .pgaGain code
  | .setfPgaBypass code => legalCode nc .pgaBypass code
  | .setfDr code => legalCode nc .dr code
  | .setfMode code => legalCode nc .mode code
  | .setfCm code => legalCode nc .cm code
  | .setfTs code => legalCode nc .ts code
  | .setfBcs code => legalCode nc .bcs code
  | .setfVref code => legalCode nc .vref code
  | .setfFilter code => legalCode nc .filter code
  | .setfPsw code => legalCode nc .psw code
  | .setfIdac code => legalCode nc .idac code
  | .setfI1mux code => legalCode nc .i1mux code
  | .setfI2mux code => legalCode nc .i2mux code
  | .setfDrdym code => legalCode nc .drdym code

end Sys2Proof
end

