-- ==== Sys2Proof/Decode.lean ====
section
/-! DEFINITION. The decoder of code words, total and rejecting by name, and the encoder, both from
spec/30_encoding.md: wire command bytes (R60 to R65) and request words (R68 to R71). The opcode
table's masks and matches stand beside them as rows (R76).

A wire byte is never an input of the block (R65); its decoding names the CMD function and the
operands that produce it (41_command_encoder.md R118 (b)). -/

namespace Sys2Proof

/-- A code word of the opcode table: a wire command byte or a request word (30_encoding.md R76). -/
inductive CodeWord where
  | command (b : Byte)
  | request (w : RequestWord)
deriving DecidableEq, Repr

/-- Why a word is no operation: the complete list of 30_encoding.md R71, and the bytes of R65 that
are no command. -/
inductive DecodeError where
  /-- One of the 220 bytes that CMD never produces (R65). -/
  | notACommand
  /-- `OP` is 0x0 or 0x7 to 0xF (R71). -/
  | badOperation
  /-- A bit that no operand occupies is 1 (R69, R71). -/
  | unusedBits
  /-- `OP = 0x5` and `SEL[3:2]` is not 0 (R71). -/
  | badAddress
  /-- `OP = 0x6` and `SEL = 15` (R71). -/
  | noSuchField
  /-- `OP = 0x6` and `ARG >= NCODES[f]` (R71). -/
  | codeOutOfRange
deriving DecidableEq, Repr

/-- The register address operand of an F-REG byte, bits 3-2 (30_encoding.md R63). -/
def commandAddr (b : Byte) : Byte := (b.extractLsb' 2 2).setWidth 8

/-- The byte count of an F-REG byte: bits 1-0 plus one (30_encoding.md R63). -/
def commandCount (b : Byte) : Byte := (b.extractLsb' 0 2).setWidth 8 + 1#8

/-- The wire command of a byte (30_encoding.md R61 to R63, R65). -/
def decodeCommand (b : Byte) : Except DecodeError Instr :=
  if b = 0x06#8 then .ok .cmdReset
  else if b = 0x08#8 then .ok .cmdStart
  else if b = 0x02#8 then .ok .cmdPowerdown
  else if b = 0x10#8 then .ok .cmdRdata
  else if b.extractLsb' 4 4 = 0b0010#4 then .ok (.cmdRreg (commandAddr b) (commandCount b))
  else if b.extractLsb' 4 4 = 0b0100#4 then .ok (.cmdWreg (commandAddr b) (commandCount b))
  else .error .notACommand

/-- `OP`, bits 15-12 of a request word (30_encoding.md R68). -/
def requestOp (w : RequestWord) : BitVec 4 := w.extractLsb' 12 4

/-- `SEL`, bits 11-8 of a request word (30_encoding.md R68). -/
def requestSel (w : RequestWord) : BitVec 4 := w.extractLsb' 8 4

/-- `ARG`, bits 7-0 of a request word (30_encoding.md R68). -/
def requestArg (w : RequestWord) : Byte := w.extractLsb' 0 8

/-- A request without operands: every bit of `SEL` and `ARG` must be 0 (30_encoding.md R69). -/
def decodeFixed (i : Instr) (sel : BitVec 4) (arg : Byte) : Except DecodeError Instr :=
  if sel = 0#4 ∧ arg = 0#8 then .ok i else .error .unusedBits

/-- RREG: the address in `SEL[1:0]`, `SEL[3:2]` and `ARG` 0 (30_encoding.md R69, R70). -/
def decodeRreg (sel : BitVec 4) (arg : Byte) : Except DecodeError Instr :=
  if sel.extractLsb' 2 2 ≠ 0#2 then .error .badAddress
  else if arg ≠ 0#8 then .error .unusedBits
  else .ok (.rreg (Reg.ofAddr (sel.extractLsb' 0 2)))

/-- SETF.f: the field id in `SEL`, a legal raw code in `ARG`; a code is never truncated
(30_encoding.md R69 to R71). -/
def decodeSetter (nc : Config.NCodes) (sel : BitVec 4) (arg : Byte) : Except DecodeError Instr :=
  match BitField.ofId sel with
  | none => .error .noSuchField
  | some f => if legalCode nc f arg then .ok (.setter f arg) else .error .codeOutOfRange

/-- The request of a word, under a setting of `NCODES` (30_encoding.md R69 to R71). -/
def decodeRequest (nc : Config.NCodes) (w : RequestWord) : Except DecodeError Instr :=
  if requestOp w = 0x1#4 then decodeFixed .reset (requestSel w) (requestArg w)
  else if requestOp w = 0x2#4 then decodeFixed .start (requestSel w) (requestArg w)
  else if requestOp w = 0x3#4 then decodeFixed .powerdown (requestSel w) (requestArg w)
  else if requestOp w = 0x4#4 then decodeFixed .rdata (requestSel w) (requestArg w)
  else if requestOp w = 0x5#4 then decodeRreg (requestSel w) (requestArg w)
  else if requestOp w = 0x6#4 then decodeSetter nc (requestSel w) (requestArg w)
  else .error .badOperation

/-- The operation a code word names (30_encoding.md R65, R69). -/
def decode (nc : Config.NCodes) : CodeWord → Except DecodeError Instr
  | .command b => decodeCommand b
  | .request w => decodeRequest nc w

/-- The bits of an opcode-table row as a code word: the wire rows have 8 bits, the request rows 16
(30_encoding.md R76). A request word or a command byte is one unit, so no byte order enters. -/
def CodeWord.ofTable (nbits w : Nat) : CodeWord :=
  if nbits ≤ 8 then .command (BitVec.ofNat 8 w) else .request (BitVec.ofNat 16 w)

/-- The operation the decoder reads from the bits `w` of an opcode-table row of `nbits` bits, under the
default setting of `NCODES`, which is the one the table's patterns are written for (30_encoding.md
R76). -/
def decodeTableWord (nbits w : Nat) : Option Instr :=
  match decode Config.ncodesDefault (CodeWord.ofTable nbits w) with
  | .ok i => some i
  | .error _ => none

/-! ### The encoder -/

/-- An F-REG byte: opcode nibble, address, count less one (30_encoding.md R60, R63). -/
def commandByte (op : BitVec 4) (addr count : Byte) : Byte :=
  op ++ addr.extractLsb' 0 2 ++ (count - 1#8).extractLsb' 0 2

/-- A request word from its three parts (30_encoding.md R68). -/
def requestWord (op sel : BitVec 4) (arg : Byte) : RequestWord := op ++ sel ++ arg

/-- The request word of a setter (30_encoding.md R69). -/
def setterWord (f : BitField) (code : Byte) : RequestWord := requestWord 0x6#4 f.id code

/-- The code word of an operation (30_encoding.md R61 to R63, R69). Only a well-formed operation's
word decodes to it. -/
def encode : Instr → CodeWord
  | .cmdReset => .command 0b00000110#8
  | .cmdStart => .command 0b00001000#8
  | .cmdPowerdown => .command 0b00000010#8
  | .cmdRdata => .command 0b00010000#8
  | .cmdRreg addr count => .command (commandByte 0b0010#4 addr count)
  | .cmdWreg addr count => .command (commandByte 0b0100#4 addr count)
  | .reset => .request (requestWord 0x1#4 0#4 0#8)
  | .start => .request (requestWord 0x2#4 0#4 0#8)
  | .powerdown => .request (requestWord 0x3#4 0#4 0#8)
  | .rdata => .request (requestWord 0x4#4 0#4 0#8)
  | .rreg r => .request (requestWord 0x5#4 (r.addr.setWidth 4) 0#8)
  | .setfMux code => .request (setterWord .mux code)
  | .setfPgaGain code => .request (setterWord .pgaGain code)
  | .setfPgaBypass code => .request (setterWord .pgaBypass code)
  | .setfDr code => .request (setterWord .dr code)
  | .setfMode code => .request (setterWord .mode code)
  | .setfCm code => .request (setterWord .cm code)
  | .setfTs code => .request (setterWord .ts code)
  | .setfBcs code => .request (setterWord .bcs code)
  | .setfVref code => .request (setterWord .vref code)
  | .setfFilter code => .request (setterWord .filter code)
  | .setfPsw code => .request (setterWord .psw code)
  | .setfIdac code => .request (setterWord .idac code)
  | .setfI1mux code => .request (setterWord .i1mux code)
  | .setfI2mux code => .request (setterWord .i2mux code)
  | .setfDrdym code => .request (setterWord .drdym code)

/-! ### The opcode table's rows -/

/-- A row of the opcode table: its level and width, and the mask and match by which a word selects
it (30_encoding.md R76). -/
inductive OpRow where
  | wire (mask pattern : Byte)
  | request (mask pattern : RequestWord)
deriving DecidableEq, Repr

/-- `w & mask = match` (30_encoding.md R76). -/
def OpRow.selects : OpRow → CodeWord → Bool
  | .wire mask pattern, .command b => b &&& mask == pattern
  | .request mask pattern, .request w => w &&& mask == pattern
  | _, _ => false

/-- The row of an operation (spec/opcode_table.json). -/
def Instr.row : Instr → OpRow
  | .cmdReset => .wire 0xFF 0x06
  | .cmdStart => .wire 0xFF 0x08
  | .cmdPowerdown => .wire 0xFF 0x02
  | .cmdRdata => .wire 0xFF 0x10
  | .cmdRreg _ _ => .wire 0xF0 0x20
  | .cmdWreg _ _ => .wire 0xF0 0x40
  | .reset => .request 0xFFFF 0x1000
  | .start => .request 0xFFFF 0x2000
  | .powerdown => .request 0xFFFF 0x3000
  | .rdata => .request 0xFFFF 0x4000
  | .rreg _ => .request 0xFCFF 0x5000
  | .setfMux _ => .request 0xFFF0 0x6000
  | .setfPgaGain _ => .request 0xFFF8 0x6100
  | .setfPgaBypass _ => .request 0xFFFE 0x6200
  | .setfDr _ => .request 0xFFF8 0x6300
  | .setfMode _ => .request 0xFFFC 0x6400
  | .setfCm _ => .request 0xFFFE 0x6500
  | .setfTs _ => .request 0xFFFE 0x6600
  | .setfBcs _ => .request 0xFFFE 0x6700
  | .setfVref _ => .request 0xFFFC 0x6800
  | .setfFilter _ => .request 0xFFFC 0x6900
  | .setfPsw _ => .request 0xFFFE 0x6A00
  | .setfIdac _ => .request 0xFFF8 0x6B00
  | .setfI1mux _ => .request 0xFFF8 0x6C00
  | .setfI2mux _ => .request 0xFFF8 0x6D00
  | .setfDrdym _ => .request 0xFFFE 0x6E00

end Sys2Proof
end

