-- ==== Sys2Proof/Machine/Codec.lean ====
section
/-! DEFINITION. BFC, the bit-field codec: the pure functions of spec/40_bitfield.md. A partial
function answers `none` where its `valid` output is 0 (00_scope.md R4). Field
ids are 4 bits wide (10_state.md R30, log entry 18). The functions that depend on
the parameter `NCODES` take it as an argument (00_scope.md R3). -/

namespace Sys2Proof.Machine

/-- `FIELD_MASK(f)` (40_bitfield.md R80). -/
def fieldMask (f : BitVec 4) : Option Byte :=
  match BitField.ofId f with
  | none => none
  | some g => some g.mask

/-- `ENCODE_BITS(f, code)`: the code shifted to the field's place; a code outside the legal set is
refused, never truncated (40_bitfield.md R81). -/
def encodeBits (nc : Config.NCodes) (f : BitVec 4) (code : Byte) : Option Byte :=
  match BitField.ofId f with
  | none => none
  | some g => if legalCode nc g code then some (code <<< g.off) else none

/-- `DECODE_FIELD(f, byte)` (40_bitfield.md R82). -/
def decodeField (f : BitVec 4) (byte : Byte) : Option Byte :=
  match BitField.ofId f with
  | none => none
  | some g => some ((byte &&& g.mask) >>> g.off)

/-- `SET_HIGH(byte, mask)` (40_bitfield.md R83). -/
def setHigh (byte mask : Byte) : Byte := byte ||| mask

/-- `SET_LOW(byte, mask)` (40_bitfield.md R84). -/
def setLow (byte mask : Byte) : Byte := byte &&& ~~~mask

/-- `APPLY_FIELD(byte, mask, bits)`, the masked form (40_bitfield.md R85, 90_conflicts.md C4). -/
def applyField (byte mask bits : Byte) : Byte := (byte &&& ~~~mask) ||| (bits &&& mask)

/-- `UPDATE_FIELD(f, code, byte)`, the one path of every setter (40_bitfield.md R105). -/
def updateField (nc : Config.NCodes) (f : BitVec 4) (code byte : Byte) : Option Byte :=
  match fieldMask f, encodeBits nc f code with
  | some m, some e => some (applyField byte m e)
  | _, _ => none

end Sys2Proof.Machine
end

