-- ==== Sys2Proof/Machine/Command.lean ====
section
/-! DEFINITION. CMD, the command encoder: the pure functions of spec/41_command_encoder.md, and what
a command byte says of the data that follows it (30_encoding.md R64). -/

namespace Sys2Proof.Machine

/-- `ENC_RESET()` (41_command_encoder.md R110). -/
def encReset : Byte := 0x06#8

/-- `ENC_START()` (41_command_encoder.md R111). -/
def encStart : Byte := 0x08#8

/-- `ENC_POWERDOWN()` (41_command_encoder.md R112). -/
def encPowerdown : Byte := 0x02#8

/-- `ENC_RDATA()` (41_command_encoder.md R113). -/
def encRdata : Byte := 0x10#8

/-- `ENC_RREG(addr, count)`: `0010 rrnn` (41_command_encoder.md R114); outside the domain there is no
byte (R116). -/
def encRreg (addr count : Byte) : Option Byte :=
  if commandDomain addr count then some (0x20#8 ||| (addr <<< 2) ||| (count - 1#8)) else none

/-- `ENC_WREG(addr, count)`: `0100 rrnn` (41_command_encoder.md R115); outside the domain there is no
byte (R116). -/
def encWreg (addr count : Byte) : Option Byte :=
  if commandDomain addr count then some (0x40#8 ||| (addr <<< 2) ||| (count - 1#8)) else none

/-- The data bytes that follow a command byte, and their direction. -/
inductive DataPhase where
  | nothing
  | fromDevice (bytes : Nat)
  | toDevice (bytes : Nat)
deriving DecidableEq, Repr

/-- What the command byte alone tells of the data that follows (30_encoding.md R64); `none` for a
byte that is no command of the block (R65). -/
def dataPhase (b : Byte) : Option DataPhase :=
  if b = 0x06#8 ∨ b = 0x08#8 ∨ b = 0x02#8 then some .nothing
  else if b = 0x10#8 then some (.fromDevice 3)
  else if b.extractLsb' 4 4 = 0b0010#4 then some (.fromDevice ((b.extractLsb' 0 2).toNat + 1))
  else if b.extractLsb' 4 4 = 0b0100#4 then some (.toDevice ((b.extractLsb' 0 2).toNat + 1))
  else none

end Sys2Proof.Machine
end

