-- ==== Sys2Proof/Machine/State.lean ====
section
/-! DEFINITION. The state of the machine, as plain data, and its value at block reset.

`img`, `stale` and `busy` are the block's whole state (10_state.md R10, R14, R15). `events` and
`trace` are the environment's side: the inputs still to come, and the record of what passed the
ports. No instruction meaning chooses an input, and nothing reads the record. -/

namespace Sys2Proof.Machine

/-- One step of an SPI transaction (20_memory.md R47). -/
inductive XStep where
  /-- `W(bs)`: send these bytes. -/
  | write (bytes : List Byte)
  /-- `R(n)`: receive n bytes. -/
  | read (count : Nat)
deriving DecidableEq, Repr

/-- What `Xact(steps)` returns (20_memory.md R47, R54). -/
inductive XactResult where
  /-- `Ok(rs)`: one byte sequence for each read step, in order. -/
  | ok (received : List (List Byte))
  /-- `Err(e)`. -/
  | err (e : Config.E)
deriving DecidableEq, Repr

/-- The environment's answer to the transaction in flight (20_memory.md R54). A transaction of SEQ
reads at most three bytes (R46), so a success offers three in arrival order and each read step takes
exactly what it asks for; a success with a short or long buffer does not exist (decision D25, log
entry 2). -/
inductive Answer where
  | ok (b0 b1 b2 : Byte)
  | err (e : Config.E)
deriving DecidableEq, Repr

/-- An operation whose transaction has been handed over: the six operation shapes of 43_operations.md
R155. A setter carries its register and the new byte built from the image at acceptance (R130). -/
inductive Flight where
  | reset
  | start
  | powerdown
  | rdata
  | rreg (r : Reg)
  | setf (r : Reg) (new : Byte)
deriving DecidableEq, Repr

/-- `BUSY` (10_state.md R15): `idle` is 0, the others are 1. What stands beside the 1 is where SEQ is
in the actions of 43_operations.md R130 (DEDUCED, log entry 4): before the response to a rejected
request, or between the actions 4 and 5 of an operation. -/
inductive Busy where
  | idle
  | rejecting
  | inFlight (op : Flight)
deriving DecidableEq, Repr

/-- The data of a success response (10_state.md R27). -/
inductive Payload where
  | nothing
  | byte (v : Byte)
  | sample (v : Word32)
deriving DecidableEq, Repr

/-- The two error kinds (60_exceptions.md R160). -/
inductive BlockError where
  | transportError (e : Config.E)
  | invalidArgument
deriving DecidableEq, Repr

/-- A response as an abstract value (10_state.md R27). -/
inductive Response where
  | ok (v : Payload)
  | err (e : BlockError)
deriving DecidableEq, Repr

/-- A use of a pure-function port with its operands (10_state.md R30). -/
inductive PortCall where
  | fieldMask (f : BitVec 4)
  | encodeBits (f : BitVec 4) (code : Byte)
  | decodeField (f : BitVec 4) (byte : Byte)
  | setHigh (byte mask : Byte)
  | setLow (byte mask : Byte)
  | applyField (byte mask bits : Byte)
  | updateField (f : BitVec 4) (code byte : Byte)
  | encReset
  | encStart
  | encPowerdown
  | encRdata
  | encRreg (addr count : Byte)
  | encWreg (addr count : Byte)
  | assemble24 (b0 b1 b2 : Byte)
  | sext24 (raw : Raw24)
  | decodeSample (b0 b1 b2 : Byte)
deriving DecidableEq, Repr

/-- The outputs of a pure-function port (10_state.md R30). `none` is `valid = 0` with no value on the
data output (93_implementation_defined.md U17). -/
inductive PortOut where
  | byte (v : Option Byte)
  | raw24 (v : Raw24)
  | sample (v : Word32)
deriving DecidableEq, Repr

/-- One thing the environment does to the block (log entry 1). -/
inductive EnvEvent where
  /-- The requester presents a request word: `req_valid = 1` at this instant (10_state.md R26). -/
  | request (w : RequestWord)
  /-- The SPI transaction primitive answers (20_memory.md R54). -/
  | answer (a : Answer)
  /-- The requester uses a pure-function port (10_state.md R30). -/
  | port (c : PortCall)
  /-- The instant at which the response to a rejected request is delivered: `BUSY` is 1 until then,
  "for however long the answer takes" (10_state.md R15, log entry 19). -/
  | deliver
  /-- Block reset (10_state.md R24, log entry 10). -/
  | blockReset
deriving DecidableEq, Repr

/-- One thing that passed the block's ports (10_state.md R26 to R30). -/
inductive PortEvent where
  /-- A request was accepted (R26). -/
  | accepted (w : RequestWord)
  /-- A step list was handed to the SPI transaction primitive (R28). -/
  | handedOver (steps : List XStep)
  /-- The primitive answered the transaction with these steps (R28). -/
  | answered (steps : List XStep) (result : XactResult)
  /-- A response was delivered (R27). -/
  | responded (r : Response)
  /-- A pure-function port showed these outputs (R30). -/
  | portShown (c : PortCall) (out : PortOut)
  /-- Block reset, with what `BUSY` was: the request under way was dropped
  (70_reset_and_hazards.md R181). -/
  | blockReset (was : Busy)
deriving DecidableEq, Repr

/-- The register image `IMG[0..3]` (10_state.md R10, R11). -/
structure Image where
  config0 : Byte
  config1 : Byte
  config2 : Byte
  config3 : Byte
deriving DecidableEq, Repr

/-- The image of the reset values `IMG_RESET[r]` (10_state.md R24). -/
def Image.reset : Image where
  config0 := Config.imgReset .config0
  config1 := Config.imgReset .config1
  config2 := Config.imgReset .config2
  config3 := Config.imgReset .config3

/-- The machine: the block's state, and the environment's side. -/
structure State where
  /-- `IMG[0..3]` (10_state.md R10). -/
  img : Image
  /-- `STALE[3:0]` (10_state.md R14). -/
  stale : BitVec 4
  /-- `BUSY` (10_state.md R15). -/
  busy : Busy
  /-- The model's own: the parameter `NCODES` the block was made with (00_scope.md R3), which no step
  changes (log entry 6). -/
  ncodes : Config.NCodes
  /-- The model's own: the environment's inputs still to come, next one first (log entry 1). -/
  events : List EnvEvent
  /-- The model's own: what passed the ports, newest first; nothing reads it (log entry 5). -/
  trace : List PortEvent
deriving DecidableEq, Repr

/-- Why the machine stops with a fault. It has no constructor: an error response is not a stop, and
after every response the block is ready for any request (43_operations.md R155, 60_exceptions.md
R166). -/
inductive Fault where
deriving DecidableEq, Repr

/-- Why the machine has no meaning for an operation. -/
inductive Refusal where
  /-- Raised by `exec` for an operation that has no meaning yet; no operation is left so. Safe: the
  machine stops where the block goes on. -/
  | notModelled (mnemonic : String)
deriving DecidableEq, Repr

/-- Right after block reset (10_state.md R24, 70_reset_and_hazards.md R181): the image at its reset
values, no flag set, not busy. No input is scheduled and nothing has passed the ports (DESIGN CHOICE,
log entries 1 and 5). `NCODES` has its default (00_scope.md R3, log entry 6). -/
def State.reset : State where
  img := Image.reset
  stale := 0b0000#4
  busy := .idle
  ncodes := Config.ncodesDefault
  events := []
  trace := []

end Sys2Proof.Machine
end

