-- ==== Sys2Proof/Machine/Flags.lean ====
section
/-! DEFINITION. The stale flags `STALE[3:0]` (10_state.md R14): reading one, and the two ways a
transaction on one register or a RESET moves them. The block has no other flag but `BUSY`. -/

namespace Sys2Proof.Machine

/-- The flag word with only the bit of register `r` set. -/
def staleBit (r : Reg) : BitVec 4 := 1#4 <<< r.addr.toNat

/-- `STALE[r]` (10_state.md R14). -/
def isStale (flags : BitVec 4) (r : Reg) : Bool := flags.getLsbD r.addr.toNat

/-- `STALE[r] <- 1`, the other three unchanged: a failed setter of register `r` (10_state.md R14). -/
def markStale (flags : BitVec 4) (r : Reg) : BitVec 4 := flags ||| staleBit r

/-- `STALE[r] <- 0`, the other three unchanged: a successful setter of register `r` (10_state.md
R14). -/
def clearStale (flags : BitVec 4) (r : Reg) : BitVec 4 := flags &&& ~~~staleBit r

/-- All four flags set: a failed RESET (10_state.md R14, 43_operations.md R131). -/
def allStale : BitVec 4 := 0b1111#4

/-- All four flags clear: a successful RESET, or block reset (10_state.md R14). -/
def noneStale : BitVec 4 := 0b0000#4

end Sys2Proof.Machine
end

