-- ==== Sys2Proof/Machine/Sample.lean ====
section
/-! DEFINITION. SXT, the sample decoder: the pure functions of spec/42_sample_decoder.md. -/

namespace Sys2Proof.Machine

/-- `ASSEMBLE24(b0, b1, b2)`: each byte is widened before it is shifted (42_sample_decoder.md R120);
the first byte received is the most significant (20_memory.md R43). -/
def assemble24 (b0 b1 b2 : Byte) : Raw24 :=
  (b0.setWidth 24 <<< 16) ||| (b1.setWidth 24 <<< 8) ||| b2.setWidth 24

/-- `SEXT24(raw)`: bit 23 fills the upper eight bits (42_sample_decoder.md R121). -/
def sext24 (raw : Raw24) : Word32 :=
  if raw.getLsbD 23 then 0xFF000000#32 ||| raw.setWidth 32 else raw.setWidth 32

/-- `DECODE_SAMPLE(b0, b1, b2)` (42_sample_decoder.md R122). -/
def decodeSample (b0 b1 b2 : Byte) : Word32 := sext24 (assemble24 b0 b1 b2)

end Sys2Proof.Machine
end

