-- ==== Sys2Proof/Machine/Ops.lean ====
section
/-! DEFINITION. The shared operations of SEQ: reading and writing the image, accepting, transacting,
committing and responding (43_operations.md R130), raising one of the two errors (60_exceptions.md),
rejecting an invalid request (43_operations.md R154) and block reset (70_reset_and_hazards.md R181).

Raising an error is the last action of an operation; it saves no context and enters no mode, and
there is no return from it (60_exceptions.md R164, R166). -/

namespace Sys2Proof.Machine

/-- What a step of this machine answers. -/
abbrev StepOutcome := Host.Outcome State Fault Refusal

/-! ### The register image -/

/-- `IMG[r]` (10_state.md R13). -/
def Image.get (m : Image) : Reg → Byte
  | .config0 => m.config0
  | .config1 => m.config1
  | .config2 => m.config2
  | .config3 => m.config3

/-- `IMG[r] <- v`, the other three bytes unchanged (10_state.md R10, R12). -/
def Image.set (m : Image) (r : Reg) (v : Byte) : Image :=
  match r with
  | .config0 => { m with config0 := v }
  | .config1 => { m with config1 := v }
  | .config2 => { m with config2 := v }
  | .config3 => { m with config3 := v }

/-! ### The ports' record, and responding -/

/-- The state after something passed a port. -/
def State.record (e : PortEvent) (s : State) : State := { s with trace := e :: s.trace }

/-- Action 6: deliver the response; `BUSY` falls (43_operations.md R130, 10_state.md R27). -/
def respond (r : Response) (s : State) : State :=
  { s with busy := .idle, trace := .responded r :: s.trace }

/-- `raise`: end the operation with an error response (60_exceptions.md R160, R164). The state
changes of a failure are made before it. -/
def raise (e : BlockError) (s : State) : State := respond (.err e) s

/-- The response to a rejected request is delivered: InvalidArgument, nothing sent, nothing changed
(43_operations.md R154). -/
def rejectInvalid (s : State) : State := raise .invalidArgument s

/-- Action 2 of 43_operations.md R130: an invalid request is rejected, no transaction is performed and
nothing changes. `BUSY` is 1 until the response is delivered (10_state.md R15): in this same step
where the delivery is the next event, in a later one where it is not (log entries 3 and 19). -/
def reject (s : State) : State :=
  let waiting := { s with busy := .rejecting }
  match s.events with
  | .deliver :: rest => rejectInvalid { waiting with events := rest }
  | _ => waiting

/-! ### Transactions -/

/-- The step list of each operation (20_memory.md R47), its command byte from CMD (00_scope.md R1).
A register address is always in the encoder's domain (41_command_encoder.md R116). -/
def Flight.steps : Flight → List XStep
  | .reset => [.write [encReset]]
  | .start => [.write [encStart]]
  | .powerdown => [.write [encPowerdown]]
  | .rdata => [.write [encRdata], .read 3]
  | .rreg r => [.write (encRreg r.addrByte Config.opCount).toList, .read 1]
  | .setf r new => [.write (encWreg r.addrByte Config.opCount).toList, .write [new]]

/-- The byte sequences that the read steps of a step list take from the bytes that arrive, in order,
each of exactly the requested length (20_memory.md R54). -/
def receivedBy : List XStep → List Byte → List (List Byte)
  | [], _ => []
  | .write _ :: steps, bs => receivedBy steps bs
  | .read n :: steps, bs => bs.take n :: receivedBy steps (bs.drop n)

/-- What `Xact(steps)` returns on an answer (20_memory.md R54). A failure carries no data. -/
def Answer.result (steps : List XStep) : Answer → XactResult
  | .ok b0 b1 b2 => .ok (receivedBy steps [b0, b1, b2])
  | .err e => .err e

/-! ### Commit: the effects table of 60_exceptions.md R164 -/

/-- The success changes of an operation (60_exceptions.md R164, 43_operations.md R131 to R136). -/
def Flight.onSuccess (f : Flight) (s : State) : State :=
  match f with
  | .reset => { s with img := Image.reset, stale := noneStale }
  | .start => s
  | .powerdown => s
  | .rdata => s
  | .rreg _ => s
  | .setf r new => { s with img := s.img.set r new, stale := clearStale s.stale r }

/-- The failure changes of an operation: never the image (60_exceptions.md R164, 10_state.md R12). -/
def Flight.onFailure (f : Flight) (s : State) : State :=
  match f with
  | .reset => { s with stale := allStale }
  | .start => s
  | .powerdown => s
  | .rdata => s
  | .rreg _ => s
  | .setf r _ => { s with stale := markStale s.stale r }

/-- The data of a successful operation's response (43_operations.md R131 to R136): RDATA decodes the
three bytes in arrival order, RREG returns its byte raw. -/
def Flight.payload (f : Flight) (b0 b1 b2 : Byte) : Payload :=
  match f with
  | .reset => .nothing
  | .start => .nothing
  | .powerdown => .nothing
  | .rdata => .sample (decodeSample b0 b1 b2)
  | .rreg _ => .byte b0
  | .setf _ _ => .nothing

/-- Actions 5 and 6 of 43_operations.md R130: the answer arrives, the operation commits all at once
and responds. A transport error is passed on unmodified (60_exceptions.md R162). -/
def complete (f : Flight) (a : Answer) (s : State) : State :=
  let answered := s.record (.answered f.steps (a.result f.steps))
  match a with
  | .ok b0 b1 b2 => respond (.ok (f.payload b0 b1 b2)) (f.onSuccess answered)
  | .err e => raise (.transportError e) (f.onFailure answered)

/-- Action 4 of 43_operations.md R130: hand the step list over and wait. Where the environment's next
event is the answer, the operation completes in this same step; where it is not, the block is left
waiting with `BUSY = 1` (log entry 3). -/
def transact (f : Flight) (s : State) : State :=
  let waiting := { s with busy := .inFlight f, trace := .handedOver f.steps :: s.trace }
  match s.events with
  | .answer a :: rest => complete f a { waiting with events := rest }
  | _ => waiting

/-- A request is accepted only when `BUSY = 0` (10_state.md R15, R26); while a request is under
way it has no effect at all (70_reset_and_hazards.md R192). -/
def whenIdle (operation : State → State) (s : State) : StepOutcome :=
  match s.busy with
  | .idle => .next (operation s)
  | .rejecting => .next s
  | .inFlight _ => .next s

/-! ### Block reset -/

/-- Block reset: no transaction; the request under way is abandoned without a response
(10_state.md R24, 70_reset_and_hazards.md R181). The parameter, the environment's inputs and the record
are not the block's state and stay. -/
def blockReset (s : State) : State :=
  { s with
    img := Image.reset
    stale := noneStale
    busy := .idle
    trace := .blockReset s.busy :: s.trace }

end Sys2Proof.Machine
end

