-- ==== Sys2Proof/Machine/Control.lean ====
section
/-! DEFINITION. The system operations RESET, START and POWERDOWN (43_operations.md R131 to R133). The
device lifecycle gates none of them (R132, decision D10). -/

namespace Sys2Proof.Machine

/-- RESET: sends 0x06; on success the image returns to its reset values and every flag clears, on
failure every flag is set (43_operations.md R131). -/
def execReset (s : State) : StepOutcome := whenIdle (transact .reset) s

/-- START: sends 0x08; no state changes (43_operations.md R132). -/
def execStart (s : State) : StepOutcome := whenIdle (transact .start) s

/-- POWERDOWN: sends 0x02; no state changes (43_operations.md R133). -/
def execPowerdown (s : State) : StepOutcome := whenIdle (transact .powerdown) s

end Sys2Proof.Machine
end

