-- ==== Sys2Proof/Machine/Read.lean ====
section
/-! DEFINITION. The loads RDATA and RREG (43_operations.md R134, R135): the destination is the
response only. -/

namespace Sys2Proof.Machine

/-- RDATA: sends 0x10 and reads three bytes; answers the sign-extended sample and keeps nothing
(43_operations.md R134). -/
def execRdata (s : State) : StepOutcome := whenIdle (transact .rdata) s

/-- RREG: sends `0x20 + 4 * addr` and reads one byte, returned raw; the image and the flags are not
touched, even where the byte agrees (43_operations.md R135). -/
def execRreg (r : Reg) (s : State) : StepOutcome := whenIdle (transact (.rreg r)) s

end Sys2Proof.Machine
end

