-- ==== Sys2Proof/Machine/Setters.lean ====
section
/-! DEFINITION. The setters: `SETF.f code` (43_operations.md R136) and its fifteen fields (R137 to
R151). A setter never is a no-op, whatever its legal code (40_bitfield.md R88). -/

namespace Sys2Proof.Machine

/-- The general setter of an accepted request (43_operations.md R136): a code outside the legal set is
InvalidArgument with no transaction; otherwise the new byte is built from the image byte of the owning
register and the whole byte is sent. -/
def setField (f : BitField) (code : Byte) (s : State) : State :=
  match updateField s.ncodes f.id code (s.img.get f.reg) with
  | none => reject s
  | some new => transact (.setf f.reg new) s

/-- SETF.MUX: the input channel, bits 7-4 of CONFIG0 (43_operations.md R137). -/
def execSetfMux (code : Byte) (s : State) : StepOutcome :=
  whenIdle (setField .mux code) s

/-- SETF.PGA_GAIN: the PGA gain, bits 3-1 of CONFIG0 (43_operations.md R138). -/
def execSetfPgaGain (code : Byte) (s : State) : StepOutcome :=
  whenIdle (setField .pgaGain code) s

/-- SETF.PGA_BYPASS: the PGA bypass, bit 0 of CONFIG0 (43_operations.md R139). -/
def execSetfPgaBypass (code : Byte) (s : State) : StepOutcome :=
  whenIdle (setField .pgaBypass code) s

/-- SETF.DR: the data rate, bits 7-5 of CONFIG1 (43_operations.md R140). -/
def execSetfDr (code : Byte) (s : State) : StepOutcome :=
  whenIdle (setField .dr code) s

/-- SETF.MODE: the operating mode, bits 4-3 of CONFIG1 (43_operations.md R141). -/
def execSetfMode (code : Byte) (s : State) : StepOutcome :=
  whenIdle (setField .mode code) s

/-- SETF.CM: the conversion mode, bit 2 of CONFIG1 (43_operations.md R142). -/
def execSetfCm (code : Byte) (s : State) : StepOutcome :=
  whenIdle (setField .cm code) s

/-- SETF.TS: the temperature-sensor enable, bit 1 of CONFIG1 (43_operations.md R143). -/
def execSetfTs (code : Byte) (s : State) : StepOutcome :=
  whenIdle (setField .ts code) s

/-- SETF.BCS: the burn-out current switch, bit 0 of CONFIG1 (43_operations.md R144). -/
def execSetfBcs (code : Byte) (s : State) : StepOutcome :=
  whenIdle (setField .bcs code) s

/-- SETF.VREF: the voltage reference, bits 7-6 of CONFIG2 (43_operations.md R145). -/
def execSetfVref (code : Byte) (s : State) : StepOutcome :=
  whenIdle (setField .vref code) s

/-- SETF.FILTER: the filter, bits 5-4 of CONFIG2 (43_operations.md R146). -/
def execSetfFilter (code : Byte) (s : State) : StepOutcome :=
  whenIdle (setField .filter code) s

/-- SETF.PSW: the power switch, bit 3 of CONFIG2 (43_operations.md R147). -/
def execSetfPsw (code : Byte) (s : State) : StepOutcome :=
  whenIdle (setField .psw code) s

/-- SETF.IDAC: the current-source magnitude, bits 2-0 of CONFIG2 (43_operations.md R148). -/
def execSetfIdac (code : Byte) (s : State) : StepOutcome :=
  whenIdle (setField .idac code) s

/-- SETF.I1MUX: the routing of current source 1, bits 7-5 of CONFIG3 (43_operations.md R149). -/
def execSetfI1mux (code : Byte) (s : State) : StepOutcome :=
  whenIdle (setField .i1mux code) s

/-- SETF.I2MUX: the routing of current source 2, bits 4-2 of CONFIG3 (43_operations.md R150). -/
def execSetfI2mux (code : Byte) (s : State) : StepOutcome :=
  whenIdle (setField .i2mux code) s

/-- SETF.DRDYM: the data-ready mode, bit 1 of CONFIG3 (43_operations.md R151). -/
def execSetfDrdym (code : Byte) (s : State) : StepOutcome :=
  whenIdle (setField .drdym code) s

end Sys2Proof.Machine
end

