-- ==== Sys2Proof/Machine/Ports.lean ====
section
/-! DEFINITION. The ports of the block (10_state.md R26 to R30): the pure-function ports, the
observation port, `req_ready`, and the bit-level response (30_encoding.md R72). -/

namespace Sys2Proof.Machine

/-- The outputs of a pure-function port (10_state.md R30), with the parameter `NCODES` as an argument
(00_scope.md R3). They depend on the operands alone (00_scope.md R4). -/
def PortCall.output (nc : Config.NCodes) : PortCall → PortOut
  | .fieldMask f => .byte (Machine.fieldMask f)
  | .encodeBits f code => .byte (Machine.encodeBits nc f code)
  | .decodeField f byte => .byte (Machine.decodeField f byte)
  | .setHigh byte mask => .byte (some (Machine.setHigh byte mask))
  | .setLow byte mask => .byte (some (Machine.setLow byte mask))
  | .applyField byte mask bits => .byte (some (Machine.applyField byte mask bits))
  | .updateField f code byte => .byte (Machine.updateField nc f code byte)
  | .encReset => .byte (some Machine.encReset)
  | .encStart => .byte (some Machine.encStart)
  | .encPowerdown => .byte (some Machine.encPowerdown)
  | .encRdata => .byte (some Machine.encRdata)
  | .encRreg addr count => .byte (Machine.encRreg addr count)
  | .encWreg addr count => .byte (Machine.encWreg addr count)
  | .assemble24 b0 b1 b2 => .raw24 (Machine.assemble24 b0 b1 b2)
  | .sext24 raw => .sample (Machine.sext24 raw)
  | .decodeSample b0 b1 b2 => .sample (Machine.decodeSample b0 b1 b2)

/-- The requester uses a pure-function port: the outputs are shown, no state of the block is read or
written (00_scope.md R4, 10_state.md R30). -/
def usePort (c : PortCall) (s : State) : State :=
  s.record (.portShown c (c.output s.ncodes))

/-- The wire row of the opcode table a port call is a use of (30_encoding.md R76: the pure functions
of BFC and SXT have no row). -/
def PortCall.instr? : PortCall → Option Instr
  | .encReset => some .cmdReset
  | .encStart => some .cmdStart
  | .encPowerdown => some .cmdPowerdown
  | .encRdata => some .cmdRdata
  | .encRreg addr count => some (.cmdRreg addr count)
  | .encWreg addr count => some (.cmdWreg addr count)
  | .fieldMask _ | .encodeBits _ _ | .decodeField _ _ | .setHigh _ _ | .setLow _ _
  | .applyField _ _ _ | .updateField _ _ _ | .assemble24 _ _ _ | .sext24 _
  | .decodeSample _ _ _ => none

/-- The port call a wire row is a use of; a request is none. -/
def portOfCommand : Instr → Option PortCall
  | .cmdReset => some .encReset
  | .cmdStart => some .encStart
  | .cmdPowerdown => some .encPowerdown
  | .cmdRdata => some .encRdata
  | .cmdRreg addr count => some (.encRreg addr count)
  | .cmdWreg addr count => some (.encWreg addr count)
  | .reset | .start | .powerdown | .rdata | .rreg _ => none
  | .setfMux _ | .setfPgaGain _ | .setfPgaBypass _ | .setfDr _ | .setfMode _ | .setfCm _
  | .setfTs _ | .setfBcs _ | .setfVref _ | .setfFilter _ | .setfPsw _ | .setfIdac _
  | .setfI1mux _ | .setfI2mux _ | .setfDrdym _ => none

/-- `BUSY` as the bit `busy` shows (10_state.md R15, R29). -/
def Busy.bit : Busy → BitVec 1
  | .idle => 0
  | .rejecting => 1
  | .inFlight _ => 1

/-- `req_ready = ~BUSY` (10_state.md R26). -/
def State.reqReady (s : State) : BitVec 1 := ~~~s.busy.bit

/-- The observation port (10_state.md R29). -/
structure Observation where
  img0 : Byte
  img1 : Byte
  img2 : Byte
  img3 : Byte
  stale : BitVec 4
  busy : BitVec 1
deriving DecidableEq, Repr

/-- What the observation port shows at all times (10_state.md R29). -/
def State.observe (s : State) : Observation where
  img0 := s.img.get .config0
  img1 := s.img.get .config1
  img2 := s.img.get .config2
  img3 := s.img.get .config3
  stale := s.stale
  busy := s.busy.bit

/-- The response port's signals; an output with no meaning has no value (30_encoding.md R72,
decision D23). -/
structure ResponseSignals where
  status : BitVec 2
  data : Option Word32
  err : Option Config.E
deriving DecidableEq, Repr

/-- `rsp_data` of a success: zero, the byte zero-extended, or the sample (30_encoding.md R72). -/
def Payload.data : Payload → Word32
  | .nothing => 0x00000000#32
  | .byte v => v.setWidth 32
  | .sample v => v

/-- The bit-level response (30_encoding.md R72). -/
def Response.signals : Response → ResponseSignals
  | .ok v => ⟨0, some v.data, none⟩
  | .err (.transportError e) => ⟨1, none, some e⟩
  | .err .invalidArgument => ⟨2, none, none⟩

end Sys2Proof.Machine
end

