-- ==== Sys2Proof/Machine/Wire.lean ====
section
/-! DEFINITION. The six wire commands of the opcode table. A wire row's rule is the CMD function that
builds its byte (30_encoding.md R76): the requester uses that port of CMD, which shows the command
byte, or `valid = 0` outside the domain, and no state of the block changes (00_scope.md R4,
10_state.md R30, log entry 12). It works in every state, `BUSY = 1` among them (40_bitfield.md R106
(f)). -/

namespace Sys2Proof.Machine

/-- CMD.RESET: `ENC_RESET()` (41_command_encoder.md R110). -/
def execCmdReset (s : State) : StepOutcome := .next (usePort .encReset s)

/-- CMD.START: `ENC_START()` (41_command_encoder.md R111). -/
def execCmdStart (s : State) : StepOutcome := .next (usePort .encStart s)

/-- CMD.POWERDOWN: `ENC_POWERDOWN()` (41_command_encoder.md R112). -/
def execCmdPowerdown (s : State) : StepOutcome := .next (usePort .encPowerdown s)

/-- CMD.RDATA: `ENC_RDATA()` (41_command_encoder.md R113). -/
def execCmdRdata (s : State) : StepOutcome := .next (usePort .encRdata s)

/-- CMD.RREG: `ENC_RREG(addr, count)` (41_command_encoder.md R114, R116). -/
def execCmdRreg (addr count : Byte) (s : State) : StepOutcome :=
  .next (usePort (.encRreg addr count) s)

/-- CMD.WREG: `ENC_WREG(addr, count)` (41_command_encoder.md R115, R116). -/
def execCmdWreg (addr count : Byte) (s : State) : StepOutcome :=
  .next (usePort (.encWreg addr count) s)

end Sys2Proof.Machine
end

