-- ==== Sys2Proof/Machine/Dispatch.lean ====
section
/-! DEFINITION. `exec`: one arm for each operation. -/

namespace Sys2Proof.Machine

-- The meaning of an operation in a state.
def exec (i : Instr) (s : State) : Host.Outcome State Fault Refusal :=
  match i with
  | .cmdReset => Sys2Proof.Machine.execCmdReset s
  | .cmdStart => Sys2Proof.Machine.execCmdStart s
  | .cmdPowerdown => Sys2Proof.Machine.execCmdPowerdown s
  | .cmdRdata => Sys2Proof.Machine.execCmdRdata s
  | .cmdRreg addr count => Sys2Proof.Machine.execCmdRreg addr count s
  | .cmdWreg addr count => Sys2Proof.Machine.execCmdWreg addr count s
  | .reset => Sys2Proof.Machine.execReset s
  | .start => Sys2Proof.Machine.execStart s
  | .powerdown => Sys2Proof.Machine.execPowerdown s
  | .rdata => Sys2Proof.Machine.execRdata s
  | .rreg r => Sys2Proof.Machine.execRreg r s
  | .setfMux code => Sys2Proof.Machine.execSetfMux code s
  | .setfPgaGain code => Sys2Proof.Machine.execSetfPgaGain code s
  | .setfPgaBypass code => Sys2Proof.Machine.execSetfPgaBypass code s
  | .setfDr code => Sys2Proof.Machine.execSetfDr code s
  | .setfMode code => Sys2Proof.Machine.execSetfMode code s
  | .setfCm code => Sys2Proof.Machine.execSetfCm code s
  | .setfTs code => Sys2Proof.Machine.execSetfTs code s
  | .setfBcs code => Sys2Proof.Machine.execSetfBcs code s
  | .setfVref code => Sys2Proof.Machine.execSetfVref code s
  | .setfFilter code => Sys2Proof.Machine.execSetfFilter code s
  | .setfPsw code => Sys2Proof.Machine.execSetfPsw code s
  | .setfIdac code => Sys2Proof.Machine.execSetfIdac code s
  | .setfI1mux code => Sys2Proof.Machine.execSetfI1mux code s
  | .setfI2mux code => Sys2Proof.Machine.execSetfI2mux code s
  | .setfDrdym code => Sys2Proof.Machine.execSetfDrdym code s

end Sys2Proof.Machine
end

