-- ==== Sys2Proof/Machine/Sequencer.lean ====
section
/-! DEFINITION. What the block does with each event of its environment: a request word presented, an
answer of the SPI transaction primitive, a use of a pure-function port, the delivery of the response to
a rejected request, a block reset; and where a code word is placed for the next step. -/

namespace Sys2Proof.Machine

/-- An accepted request: a word that names an operation runs it, any other word is answered
InvalidArgument (43_operations.md R130 actions 1 and 2, R154). -/
def runRequest (w : RequestWord) (s : State) : StepOutcome :=
  match decodeRequest s.ncodes w with
  | .ok i => exec i (s.record (.accepted w))
  | .error _ => .next (reject (s.record (.accepted w)))

/-- A request word is presented. It is accepted only when `BUSY = 0`; otherwise it is not queued and
not remembered (10_state.md R26, 70_reset_and_hazards.md R192, log entry 17). -/
def onRequest (w : RequestWord) (s : State) : StepOutcome :=
  match s.busy with
  | .idle => runRequest w s
  | .rejecting => .next s
  | .inFlight _ => .next s

/-- The SPI transaction primitive answers. The operation in flight completes (43_operations.md R130
actions 5 and 6); with no transaction in flight nobody asked, and nothing happens (log entries 8 and 9). -/
def onAnswer (a : Answer) (s : State) : StepOutcome :=
  match s.busy with
  | .idle => .next s
  | .rejecting => .next s
  | .inFlight f => .next (complete f a s)

/-- The requester uses a pure-function port; a CMD port is a wire row of the opcode table
(10_state.md R30, 30_encoding.md R76). -/
def onPort (c : PortCall) (s : State) : StepOutcome :=
  match c.instr? with
  | some i => exec i s
  | none => .next (usePort c s)

/-- The response to a rejected request is delivered (10_state.md R15, R27); where none is due nothing
happens (log entry 19). -/
def onDeliver (s : State) : StepOutcome :=
  match s.busy with
  | .rejecting => .next (rejectInvalid s)
  | .idle => .next s
  | .inFlight _ => .next s

/-- The environment does nothing. A rejection waits for nobody, so its response is delivered; an idle
block does not act (60_exceptions.md R168), and one that waits for an answer goes on waiting
(60_exceptions.md R174). -/
def onQuiet (s : State) : StepOutcome := onDeliver s

/-- The block meets one event of its environment. -/
def onEvent (e : EnvEvent) (s : State) : StepOutcome :=
  match e with
  | .request w => onRequest w s
  | .answer a => onAnswer a s
  | .port c => onPort c s
  | .deliver => onDeliver s
  | .blockReset => .next (blockReset s)

/-- The event by which a code word reaches the block: a request word is presented on the request
port; a wire byte becomes a use of the CMD port that produces it (41_command_encoder.md R118 (b)). A
byte that CMD never produces is presented as a request word, which is invalid: a wire opcode makes no
request (30_encoding.md R65, R71, log entry 11). -/
def eventOf : CodeWord → EnvEvent
  | .request w => .request w
  | .command b =>
    match decodeCommand b with
    | .error _ => .request (b.setWidth 16)
    | .ok i =>
      match portOfCommand i with
      | some c => .port c
      | none => .request (b.setWidth 16)

/-- The state in which the next event is this one and the block can take it: a request is accepted
only when `BUSY = 0`. -/
def placeNext (e : EnvEvent) (s : State) : State :=
  { s with busy := .idle, events := e :: s.events }

end Sys2Proof.Machine
end

