-- ==== Sys2Proof/Machine/Step.lean ====
section
/-! DEFINITION. The step: the block meets the next event of its environment. With no event an
idle block does nothing (60_exceptions.md R168), a transaction that is never answered leaves it
waiting for ever (60_exceptions.md R174), and the response to a rejected request is delivered. -/

namespace Sys2Proof.Machine

/-- One step of the machine. -/
def step (s : State) : Host.Outcome State Fault Refusal :=
  match s.events with
  | [] => onQuiet s
  | e :: rest => onEvent e { s with events := rest }

/-- `s` with a row's word placed where the next step takes it: the requester presents it now, with
`BUSY = 0` (log entry 11). -/
def State.withFetchWord (s : State) (nbits w : Nat) : State :=
  placeNext (eventOf (CodeWord.ofTable nbits w)) s

end Sys2Proof.Machine
end

