-- ==== Sys2Proof/Machine/Device.lean ====
section
/-! DEFINITION. The converter as the spec describes it behind the transaction primitive: its four
registers `DEV[0..3]` (10_state.md R25) and its lifecycle (60_exceptions.md R170). It is environment:
no meaning and no step reads it, and what it answers is unconstrained (20_memory.md R54). Claims that
assume a faithful converter name the relations below as a premise (log entry 14). -/

namespace Sys2Proof.Machine

/-! ### What a transaction asks of the converter's registers -/

/-- What a step list asks of the converter's registers. -/
inductive WireEffect where
  | resetAll
  | writeReg (r : Reg) (v : Byte)
  | nothing
deriving DecidableEq, Repr

/-- A RESET command asks for the defaults, a one-byte WREG for its byte in its register, and the other
transactions of SEQ for nothing (20_memory.md R41, R47). -/
def wireEffect : List XStep → WireEffect
  | [.write [c]] => if c = 0x06#8 then .resetAll else .nothing
  | [.write [c], .write [v]] =>
    if c = 0x40#8 then .writeReg .config0 v
    else if c = 0x44#8 then .writeReg .config1 v
    else if c = 0x48#8 then .writeReg .config2 v
    else if c = 0x4C#8 then .writeReg .config3 v
    else .nothing
  | _ => .nothing

/-- What a faithful converter's registers may become under one answered transaction: an acknowledged
write or reset took place; after a failure each register the transaction asks about holds its old
byte or the asked one, in a failed RESET each by itself (93_implementation_defined.md U5). -/
def deviceMayBecome (asked : WireEffect) (result : XactResult) (old new : Image) : Prop :=
  match asked, result with
  | .resetAll, .ok _ => ∀ r : Reg, new.get r = 0x00#8
  | .resetAll, .err _ => ∀ r : Reg, new.get r = old.get r ∨ new.get r = 0x00#8
  | .writeReg r v, .ok _ => new = old.set r v
  | .writeReg r v, .err _ => new = old ∨ new = old.set r v
  | .nothing, _ => new = old

/-- A faithful converter over one event of the ports. A transaction that block reset abandoned leaves
it anyhow (93_implementation_defined.md U16); without a transaction it keeps its registers. -/
def deviceFollows (e : PortEvent) (old new : Image) : Prop :=
  match e with
  | .answered steps result => deviceMayBecome (wireEffect steps) result old new
  | .blockReset (.inFlight _) => True
  | .blockReset .idle => new = old
  | .blockReset .rejecting => new = old
  | .accepted _ => new = old
  | .handedOver _ => new = old
  | .responded _ => new = old
  | .portShown _ _ => new = old

/-- A faithful converter over a record of the ports, newest event first, from `start` to `now`. -/
def deviceRun : List PortEvent → Image → Image → Prop
  | [], start, now => now = start
  | e :: older, start, now => ∃ mid, deviceRun older start mid ∧ deviceFollows e mid now

/-- A faithful converter answers a one-byte RREG with the register's byte
(93_implementation_defined.md U6). -/
def deviceReadsBack (a : Answer) (r : Reg) (dev : Image) : Prop :=
  match a with
  | .ok b0 _ _ => b0 = dev.get r
  | .err _ => True

/-! ### The lifecycle -/

/-- The states of the converter's lifecycle (60_exceptions.md R170). -/
inductive Lifecycle where
  | uninitialized
  | configured
  | converting
  | singleShotPending
  | idle
deriving DecidableEq, Repr

/-- The two values of the attribute CM; which code is which is not in the source
(91_not_in_source.md N3). -/
inductive ConversionMode where
  | single
  | continuous
deriving DecidableEq, Repr

/-- The events of the lifecycle (60_exceptions.md R170). -/
inductive LifecycleEvent where
  | powerUp
  | resetAccepted
  | registerWrite
  | start (mode : ConversionMode)
  | conversionConsumed
  | powerdown
deriving DecidableEq, Repr

/-- The transitions the document states (60_exceptions.md R170); `none` is a pair it does not state,
whose successor is unknown (93_implementation_defined.md U12). -/
def Lifecycle.next? : Lifecycle → LifecycleEvent → Option Lifecycle
  | _, .powerUp => some .uninitialized
  | _, .resetAccepted => some .uninitialized
  | _, .powerdown => some .idle
  | .uninitialized, .registerWrite => some .configured
  | .configured, .start .continuous => some .converting
  | .configured, .start .single => some .singleShotPending
  | .idle, .start .continuous => some .converting
  | .idle, .start .single => some .singleShotPending
  | .singleShotPending, .conversionConsumed => some .idle
  | .configured, .registerWrite => none
  | .converting, .registerWrite => none
  | .singleShotPending, .registerWrite => none
  | .idle, .registerWrite => none
  | .uninitialized, .start _ => none
  | .converting, .start _ => none
  | .singleShotPending, .start _ => none
  | .uninitialized, .conversionConsumed => none
  | .configured, .conversionConsumed => none
  | .converting, .conversionConsumed => none
  | .idle, .conversionConsumed => none

/-- The lifecycle event an acknowledged operation of the block is, in the conversion mode the
converter holds; the loads are none that the document states (60_exceptions.md R170). -/
def Flight.lifecycleEvent (mode : ConversionMode) : Flight → Option LifecycleEvent
  | .reset => some .resetAccepted
  | .start => some (.start mode)
  | .powerdown => some .powerdown
  | .rdata => none
  | .rreg _ => none
  | .setf _ _ => some .registerWrite

end Sys2Proof.Machine
end

