-- ==== Sys2Proof/Safety.lean ====
section
/-! DEFINITION. What the claims say of a state: the invariants of the spec over every state, and the
record of the ports read as a history. -/

namespace Sys2Proof.Machine

/-! ### The reserved bit -/

/-- Bit 0 of `IMG[3]` is 0 (10_state.md R31), and so is bit 0 of a byte in flight to CONFIG3 ("the
block therefore always sends 0 in the reserved position"). -/
def ReservedBitClear (s : State) : Prop :=
  s.img.config3.getLsbD 0 = false ∧
    ∀ new : Byte, s.busy = .inFlight (.setf .config3 new) → new.getLsbD 0 = false

/-! ### The image and the flags against the history of transactions -/

/-- The bytes most recently acknowledged by the device, read from the record (10_state.md R32):
newest event first. -/
def ackedImage : List PortEvent → Image
  | [] => Image.reset
  | .answered steps (.ok _) :: older =>
    match wireEffect steps with
    | .resetAll => Image.reset
    | .writeReg r v => (ackedImage older).set r v
    | .nothing => ackedImage older
  | .answered _ (.err _) :: older => ackedImage older
  | .blockReset _ :: _ => Image.reset
  | .accepted _ :: older => ackedImage older
  | .handedOver _ :: older => ackedImage older
  | .responded _ :: older => ackedImage older
  | .portShown _ _ :: older => ackedImage older

/-- `IMG[r]` is the byte most recently acknowledged for register `r` (10_state.md R32). -/
def MirrorsAcknowledged (s : State) : Prop := s.img = ackedImage s.trace

/-- The registers in doubt, read from the record: those whose last transaction that could have changed
them failed (10_state.md R14, 43_operations.md R152 (g)). -/
def doubtedFlags : List PortEvent → BitVec 4
  | [] => 0b0000#4
  | .answered steps (.ok _) :: older =>
    match wireEffect steps with
    | .resetAll => 0b0000#4
    | .writeReg r _ => clearStale (doubtedFlags older) r
    | .nothing => doubtedFlags older
  | .answered steps (.err _) :: older =>
    match wireEffect steps with
    | .resetAll => 0b1111#4
    | .writeReg r _ => markStale (doubtedFlags older) r
    | .nothing => doubtedFlags older
  | .blockReset _ :: _ => 0b0000#4
  | .accepted _ :: older => doubtedFlags older
  | .handedOver _ :: older => doubtedFlags older
  | .responded _ :: older => doubtedFlags older
  | .portShown _ _ :: older => doubtedFlags older

/-- `STALE` holds exactly the registers in doubt (10_state.md R14). -/
def FlagsTellDoubt (s : State) : Prop := s.stale = doubtedFlags s.trace

/-! ### One response and one transaction for each request -/

/-- 1 while a request is under way, in flight or rejected and not yet answered. -/
def openCount (s : State) : Nat :=
  match s.busy with
  | .idle => 0
  | .rejecting => 1
  | .inFlight _ => 1

/-- 1 while a transaction is in flight. -/
def inFlightCount (s : State) : Nat :=
  match s.busy with
  | .idle => 0
  | .rejecting => 0
  | .inFlight _ => 1

/-- How many requests were accepted. -/
def acceptedCount (t : List PortEvent) : Nat :=
  t.countP fun e => match e with | .accepted _ => true | _ => false

/-- How many responses were delivered. -/
def respondedCount (t : List PortEvent) : Nat :=
  t.countP fun e => match e with | .responded _ => true | _ => false

/-- How many step lists were handed over. -/
def handedOverCount (t : List PortEvent) : Nat :=
  t.countP fun e => match e with | .handedOver _ => true | _ => false

/-- How many transactions were answered. -/
def answeredCount (t : List PortEvent) : Nat :=
  t.countP fun e => match e with | .answered _ _ => true | _ => false

/-- How many requests block reset dropped without a response. -/
def droppedCount (t : List PortEvent) : Nat :=
  t.countP fun e => match e with
    | .blockReset (.inFlight _) => true
    | .blockReset .rejecting => true
    | _ => false

/-- How many transactions block reset abandoned. -/
def abandonedCount (t : List PortEvent) : Nat :=
  t.countP fun e => match e with | .blockReset (.inFlight _) => true | _ => false

/-- Every accepted request is answered exactly once, is under way, or was dropped by block reset
(10_state.md R27, 70_reset_and_hazards.md R181). -/
def EachRequestAnsweredOnce (s : State) : Prop :=
  acceptedCount s.trace = respondedCount s.trace + openCount s + droppedCount s.trace

/-- Every transaction handed over was answered, is in flight, or was abandoned by block reset: there
is never more than one (20_memory.md R49). -/
def EachTransactionAnsweredOnce (s : State) : Prop :=
  handedOverCount s.trace = answeredCount s.trace + inFlightCount s + abandonedCount s.trace

/-! ### The converter -/

/-- Where a register is not marked stale, the converter's register equals the image byte. -/
def AgreesWhereNotStale (s : State) (dev : Image) : Prop :=
  ∀ r : Reg, isStale s.stale r = false → dev.get r = s.img.get r

/-- No block reset stands in the record. -/
def NoBlockReset (t : List PortEvent) : Prop := ∀ was : Busy, PortEvent.blockReset was ∉ t

/-- Whatever a faithful converter that began at its defaults may hold after what passed the ports, it
agrees with the image where no flag is set (10_state.md R14; the premise that it began at its defaults
is 70_reset_and_hazards.md R182). -/
def FaithfulDeviceAgrees (s : State) : Prop :=
  NoBlockReset s.trace →
    ∀ start dev : Image, (∀ r : Reg, start.get r = 0x00#8) → deviceRun s.trace start dev →
      AgreesWhereNotStale s dev

/-! ### Terms of the per-operation claims -/

/-- The block's own part of two states is the same: image, flags and `BUSY` (10_state.md R10, R14,
R15). -/
def SameBlock (s t : State) : Prop := s.img = t.img ∧ s.stale = t.stale ∧ s.busy = t.busy

/-- The state after an accepted operation whose transaction with these steps the primitive answered
with success: what passed the ports, in order, and the rest of the state as given. -/
def succeeded (steps : List XStep) (received : List (List Byte)) (v : Payload)
    (rest : List EnvEvent) (s : State) : State :=
  { s with
    busy := .idle
    events := rest
    trace := .responded (.ok v) :: .answered steps (.ok received) :: .handedOver steps :: s.trace }

/-- The same for a transaction that failed with the error value `e`. -/
def failed (steps : List XStep) (e : Config.E) (rest : List EnvEvent) (s : State) : State :=
  { s with
    busy := .idle
    events := rest
    trace := .responded (.err (.transportError e)) :: .answered steps (.err e) ::
      .handedOver steps :: s.trace }

/-- The state after an accepted operation handed its step list over and no answer has come:
`BUSY = 1` (60_exceptions.md R174). -/
def awaiting (f : Flight) (steps : List XStep) (s : State) : State :=
  { s with busy := .inFlight f, trace := .handedOver steps :: s.trace }

/-- The state after a request was rejected and its response delivered: nothing sent, nothing
changed. -/
def rejected (rest : List EnvEvent) (s : State) : State :=
  { s with busy := .idle, events := rest, trace := .responded (.err .invalidArgument) :: s.trace }

/-- What the rule of one setter says (43_operations.md R136 and R137 to R151), for an accepted
request: `codes` is `NCODES[f]` in the block's setting, `r` the register, `cmd` its WREG byte, `keep`
the mask of the sibling bits, `off` the offset, `bit` the register's flag. A code out of range is
InvalidArgument with nothing sent, `BUSY` 1 until the response is delivered; otherwise the new byte is
sent, and committed, with the flag cleared, on success; a failure sets the flag and leaves the image;
unanswered, the block waits. -/
def SetterRule (meaning : Byte → State → StepOutcome) (codes : Config.NCodes → Nat) (r : Reg)
    (cmd keep : Byte) (off : Nat) (bit : BitVec 4) : Prop :=
  ∀ (code : Byte) (s : State), s.busy = .idle →
    (codes s.ncodes ≤ code.toNat →
      (∀ rest, s.events = .deliver :: rest → meaning code s = .next (rejected rest s)) ∧
      ((∀ rest, s.events ≠ .deliver :: rest) →
        meaning code s = .next { s with busy := .rejecting })) ∧
    (code.toNat < codes s.ncodes → ∃ new : Byte, new = (s.img.get r &&& keep) ||| (code <<< off) ∧
      (∀ b0 b1 b2 rest, s.events = .answer (.ok b0 b1 b2) :: rest →
        meaning code s = .next (succeeded [.write [cmd], .write [new]] [] .nothing rest
          { s with img := s.img.set r new, stale := s.stale &&& ~~~bit })) ∧
      (∀ e rest, s.events = .answer (.err e) :: rest →
        meaning code s = .next (failed [.write [cmd], .write [new]] e rest
          { s with stale := s.stale ||| bit })) ∧
      ((∀ a rest, s.events ≠ .answer a :: rest) →
        meaning code s = .next (awaiting (.setf r new) [.write [cmd], .write [new]] s)))

/-- `t` is what an accepted and acknowledged `SETF.f code` leaves from `s`. -/
def AfterSetter (f : BitField) (code : Byte) (s t : State) : Prop :=
  ∃ (b0 b1 b2 : Byte) (rest : List EnvEvent),
    exec (.setter f code) { s with busy := .idle, events := .answer (.ok b0 b1 b2) :: rest } =
      .next t

end Sys2Proof.Machine
end

