-- ==== Sys2Proof/Certificates/Slice0/Obligations.lean ====
section
/-! DEFINITION. The statements for the provers. Each docstring names the rule of spec/ it formalises.

The environment's answers are the inputs `State.events`, over which every statement quantifies: the
answer at the head of it is the answer of the operation's transaction (20_memory.md R54). -/

open Sys2Proof Sys2Proof.Machine

/-! ### Encodings -/

/-- Decoding the word of a well-formed operation gives the operation back, under every setting of
`NCODES`: no bit of an encoding is dropped (30_encoding.md R63, R69, R70). -/
def Obligations.DecodeEncodeRoundTrip : Prop :=
  ∀ (nc : Config.NCodes) (i : Instr), i.wf nc = true → decode nc (encode i) = .ok i

/-- A word that decodes is the one word of a well-formed operation, and selects that operation's row
of the opcode table (30_encoding.md R69: every bit not occupied by an operand must be 0; R76;
41_command_encoder.md R118 (b)). -/
def Obligations.DecodedWordsEncodeBack : Prop :=
  ∀ (nc : Config.NCodes) (c : CodeWord) (i : Instr), decode nc c = .ok i →
    i.wf nc = true ∧ encode i = c ∧ i.row.selects c = true

/-- Words written out from the encodings of 30_encoding.md decode to their operations. -/
def Obligations.SpecWordsDecode : Prop :=
  decodeTableWord 8 0b00000110 = some .cmdReset ∧
  decodeTableWord 8 0b00001000 = some .cmdStart ∧
  decodeTableWord 8 0b00000010 = some .cmdPowerdown ∧
  decodeTableWord 8 0b00010000 = some .cmdRdata ∧
  decodeTableWord 8 0b00101000 = some (.cmdRreg 2 1) ∧
  decodeTableWord 8 0b01001111 = some (.cmdWreg 3 4) ∧
  decodeTableWord 16 0b0001000000000000 = some .reset ∧
  decodeTableWord 16 0b0100000000000000 = some .rdata ∧
  decodeTableWord 16 0b0101001000000000 = some (.rreg .config2) ∧
  decodeTableWord 16 0b0110000100000111 = some (.setfPgaGain 7) ∧
  decodeTableWord 16 0b0110111000000001 = some (.setfDrdym 1) ∧
  decodeTableWord 16 0b0110111100000000 = none

/-- The complete list of the ways a request word is invalid (30_encoding.md R71), under every setting
of `NCODES`, on the word's numeric value: `OP = w / 4096`, `SEL = w / 256 % 16`, `ARG = w % 256`. -/
def Obligations.InvalidWordsAreTheListedOnes : Prop :=
  ∀ (nc : Config.NCodes) (w : RequestWord),
    (∃ e, decodeRequest nc w = .error e) ↔
      (w.toNat / 4096 = 0 ∨ 7 ≤ w.toNat / 4096) ∨
      (1 ≤ w.toNat / 4096 ∧ w.toNat / 4096 ≤ 4 ∧
        (w.toNat / 256 % 16 ≠ 0 ∨ w.toNat % 256 ≠ 0)) ∨
      (w.toNat / 4096 = 5 ∧ (4 ≤ w.toNat / 256 % 16 ∨ w.toNat % 256 ≠ 0)) ∨
      (w.toNat / 4096 = 6 ∧ w.toNat / 256 % 16 = 15) ∨
      (w.toNat / 4096 = 6 ∧ ∃ f : BitField, f.id.toNat = w.toNat / 256 % 16 ∧
        nc.of f ≤ w.toNat % 256)

/-- The bytes that are commands of the block are the 36 of 30_encoding.md R65. -/
def Obligations.CommandBytesAreThirtySix : Prop :=
  ∀ b : Byte, (decodeCommand b).isOk = true ↔
    b = 0x02#8 ∨ b = 0x06#8 ∨ b = 0x08#8 ∨ b = 0x10#8 ∨
      (0x20 ≤ b.toNat ∧ b.toNat ≤ 0x2F) ∨ (0x40 ≤ b.toNat ∧ b.toNat ≤ 0x4F)

/-! ### BFC: the bit-field codec -/

/-- The bit-field descriptor table (10_state.md R22): id, owning register, offset, width and mask of
each field, and the mask as `FIELD_MASK` shows it (40_bitfield.md R80). -/
def Obligations.FieldTable : Prop :=
  (BitField.all.map fun f => (f.id.toNat, f.reg.addr.toNat, f.off, f.width, fieldMask f.id)) =
    [(0, 0, 4, 4, some 0xF0#8), (1, 0, 1, 3, some 0x0E#8), (2, 0, 0, 1, some 0x01#8),
      (3, 1, 5, 3, some 0xE0#8), (4, 1, 3, 2, some 0x18#8), (5, 1, 2, 1, some 0x04#8),
      (6, 1, 1, 1, some 0x02#8), (7, 1, 0, 1, some 0x01#8), (8, 2, 6, 2, some 0xC0#8),
      (9, 2, 4, 2, some 0x30#8), (10, 2, 3, 1, some 0x08#8), (11, 2, 0, 3, some 0x07#8),
      (12, 3, 5, 3, some 0xE0#8), (13, 3, 2, 3, some 0x1C#8), (14, 3, 1, 1, some 0x02#8)] ∧
    fieldMask 15#4 = none

/-- Field masks never overlap inside a register (10_state.md R23). Their unions 0xFF, 0xFF, 0xFF and
0xFE are computed from the table of R22, as R23 marks them. -/
def Obligations.FieldMasksAreDisjoint : Prop :=
  (∀ f g : BitField, f ≠ g → f.reg = g.reg → f.mask &&& g.mask = 0#8) ∧
  (Reg.all.map fun r =>
    (BitField.all.filter fun f => f.reg = r).foldl (fun u f => u ||| f.mask) 0#8) =
    [0xFF#8, 0xFF#8, 0xFF#8, 0xFE#8]

/-- The three masked operations (40_bitfield.md R83, R84, R85), and the guarantee that an update
never changes a bit outside the mask (R86). -/
def Obligations.MaskedOperations : Prop :=
  ∀ byte mask bits : Byte,
    setHigh byte mask = byte ||| mask ∧
    setLow byte mask = byte &&& ~~~mask ∧
    applyField byte mask bits = (byte &&& ~~~mask) ||| (bits &&& mask) ∧
    applyField byte mask bits = setHigh (setLow byte mask) (bits &&& mask) ∧
    applyField byte mask bits &&& ~~~mask = byte &&& ~~~mask

/-- `ENCODE_BITS` (40_bitfield.md R81), for every setting of `NCODES`: it is valid exactly
for a legal code of a named field, shifts the code to the field's place, and no encoded bit falls
outside the field. -/
def Obligations.EncodeBitsLegalCodesOnly : Prop :=
  ∀ (nc : Config.NCodes) (n : BitVec 4) (code : Byte),
    match BitField.ofId n with
    | none => n = 15#4 ∧ encodeBits nc n code = none
    | some f =>
      (nc.of f ≤ code.toNat → encodeBits nc n code = none) ∧
      (code.toNat < nc.of f → encodeBits nc n code = some (code <<< f.off) ∧
        (code <<< f.off).toNat = code.toNat * 2 ^ f.off ∧
        (code <<< f.off) &&& ~~~f.mask = 0#8)

/-- `DECODE_FIELD` (40_bitfield.md R82) reads back exactly the field's mask: the result is the number
in the field's bits, below `2^W`, whatever the other bits are; id 15 is invalid. -/
def Obligations.DecodeFieldReadsTheMask : Prop :=
  ∀ (n : BitVec 4) (byte : Byte),
    match BitField.ofId n with
    | none => n = 15#4 ∧ decodeField n byte = none
    | some f => ∃ code : Byte, decodeField n byte = some code ∧
        code.toNat = byte.toNat / 2 ^ f.off % 2 ^ f.width ∧
        ∀ other : Byte, decodeField n ((byte &&& f.mask) ||| (other &&& ~~~f.mask)) = some code

/-- The laws of `UPDATE_FIELD` (40_bitfield.md R86 (a) to (d), R105), for every setting of `NCODES`,
every field, legal codes and byte: the update equation, idempotence, read-back, last write
wins; and no result for an illegal code. -/
def Obligations.UpdateFieldLaws : Prop :=
  ∀ (nc : Config.NCodes) (f : BitField) (c d b : Byte),
    (nc.of f ≤ c.toNat → updateField nc f.id c b = none) ∧
    (c.toNat < nc.of f → ∃ u : Byte,
      updateField nc f.id c b = some u ∧
      u = (b &&& ~~~f.mask) ||| (c <<< f.off) ∧
      updateField nc f.id c u = some u ∧
      decodeField f.id u = some c ∧
      decodeField f.id (c <<< f.off) = some c ∧
      (d.toNat < nc.of f → updateField nc f.id d u = updateField nc f.id d b))

/-- Sibling independence (40_bitfield.md R86 (e), (f)): an update of one field leaves every other
field of the register as it decodes, updates of two fields commute, and the reserved bit of register 3
is carried through. -/
def Obligations.SiblingFieldsAreIndependent : Prop :=
  ∀ (nc : Config.NCodes) (f g : BitField) (c d b u v : Byte),
    f ≠ g → f.reg = g.reg →
    updateField nc f.id c b = some u → updateField nc g.id d b = some v →
    decodeField g.id u = decodeField g.id b ∧
    updateField nc g.id d u = updateField nc f.id c v ∧
    (f.reg = .config3 → u.getLsbD 0 = b.getLsbD 0)

/-- A register byte is the OR of the encoded bits of its fields, plus a 0 in the reserved position
(30_encoding.md R66; with `SetterSetsItsFieldAlone` it gives 43_operations.md R152 (e)). -/
def Obligations.RegisterByteIsTheOrOfItsFields : Prop :=
  ∀ (r : Reg) (b : Byte), (r = .config3 → b.getLsbD 0 = false) →
    some b = (BitField.all.filter fun f => f.reg = r).foldl (fun u f =>
      match u, decodeField f.id b with
      | some acc, some code => some (acc ||| (code <<< f.off))
      | _, _ => none) (some 0#8)

/-- Clearing some bits of a field with `SET_LOW` and setting others with `SET_HIGH` gives the byte of
`APPLY_FIELD` exactly when the two masks together cover the whole field mask (40_bitfield.md R89). -/
def Obligations.ClearThenSetIsApplyField : Prop :=
  ∀ (f : BitField) (low high : Byte),
    low &&& ~~~f.mask = 0#8 → high &&& ~~~f.mask = 0#8 → low &&& high = 0#8 →
    ((∀ b : Byte, setHigh (setLow b low) high = applyField b f.mask high) ↔
      low ||| high = f.mask)

/-! ### CMD: the command encoder and its rows -/

/-- The four fixed commands (41_command_encoder.md R110 to R113): in every state the port shows the
command's byte, and nothing of the block changes. -/
def Obligations.FixedCommandPorts : Prop :=
  ∀ s : State,
    exec .cmdReset s =
      .next { s with trace := .portShown .encReset (.byte (some 0x06#8)) :: s.trace } ∧
    exec .cmdStart s =
      .next { s with trace := .portShown .encStart (.byte (some 0x08#8)) :: s.trace } ∧
    exec .cmdPowerdown s =
      .next { s with trace := .portShown .encPowerdown (.byte (some 0x02#8)) :: s.trace } ∧
    exec .cmdRdata s =
      .next { s with trace := .portShown .encRdata (.byte (some 0x10#8)) :: s.trace }

/-- `ENC_RREG` (41_command_encoder.md R114, R116) as its port shows it in every state: outside
address 0 to 3 or count 1 to 4 no byte; inside, the byte `0010 rrnn` with `rr` the address and `nn`
the count less one. Nothing of the block changes. -/
def Obligations.RregCommandPort : Prop :=
  ∀ (addr count : Byte) (s : State),
    ((3 < addr.toNat ∨ count.toNat < 1 ∨ 4 < count.toNat) →
      exec (.cmdRreg addr count) s =
        .next { s with trace := .portShown (.encRreg addr count) (.byte none) :: s.trace }) ∧
    ((addr.toNat ≤ 3 ∧ 1 ≤ count.toNat ∧ count.toNat ≤ 4) →
      ∃ cmd : Byte, cmd.toNat = 0x20 + 4 * addr.toNat + (count.toNat - 1) ∧
        exec (.cmdRreg addr count) s =
          .next { s with trace := .portShown (.encRreg addr count) (.byte (some cmd)) :: s.trace })

/-- `ENC_WREG` (41_command_encoder.md R115, R116) as its port shows it in every state: outside
address 0 to 3 or count 1 to 4 no byte; inside, the byte `0100 rrnn`. Nothing of the block changes. -/
def Obligations.WregCommandPort : Prop :=
  ∀ (addr count : Byte) (s : State),
    ((3 < addr.toNat ∨ count.toNat < 1 ∨ 4 < count.toNat) →
      exec (.cmdWreg addr count) s =
        .next { s with trace := .portShown (.encWreg addr count) (.byte none) :: s.trace }) ∧
    ((addr.toNat ≤ 3 ∧ 1 ≤ count.toNat ∧ count.toNat ≤ 4) →
      ∃ cmd : Byte, cmd.toNat = 0x40 + 4 * addr.toNat + (count.toNat - 1) ∧
        exec (.cmdWreg addr count) s =
          .next { s with trace := .portShown (.encWreg addr count) (.byte (some cmd)) :: s.trace })

/-- Injectivity of the encoder (41_command_encoder.md R118 (a)): two different commands, or one
command with two different argument pairs, never show the same byte; and the byte is the command's
code word. -/
def Obligations.CommandEncoderIsInjective : Prop :=
  ∀ (nc : Config.NCodes) (i j : Instr) (c d : PortCall), i.wf nc = true → j.wf nc = true →
    portOfCommand i = some c → portOfCommand j = some d →
    (∃ b : Byte, c.output nc = .byte (some b) ∧ encode i = .command b) ∧
    (c.output nc = d.output nc → i = j)

/-- Laws (b) to (e) of the encoder (41_command_encoder.md R118). -/
def Obligations.CommandEncoderLaws : Prop :=
  (∀ c : Byte, 0x20 ≤ c.toNat ∧ c.toNat ≤ 0x2F →
    encRreg ((c >>> 2) &&& 3#8) ((c &&& 3#8) + 1#8) = some c) ∧
  (∀ c : Byte, 0x40 ≤ c.toNat ∧ c.toNat ≤ 0x4F →
    encWreg ((c >>> 2) &&& 3#8) ((c &&& 3#8) + 1#8) = some c) ∧
  (∀ a ∈ [0#8, 1#8, 2#8, 3#8], ∀ n ∈ [1#8, 2#8, 3#8, 4#8],
    encWreg a n = (encRreg a n).map (· ^^^ 0x60#8)) ∧
  (∀ r : Reg, encRreg r.addrByte 1#8 = some (0x20#8 + 4#8 * r.addrByte) ∧
    encWreg r.addrByte 1#8 = some (0x40#8 + 4#8 * r.addrByte)) ∧
  (∀ c : Byte, (decodeCommand c).isOk = true → c.getLsbD 7 = false)

/-- Every transaction of SEQ begins with exactly one command byte, and the steps after it move exactly
the data bytes the command byte tells, in the direction it tells (30_encoding.md R60, R64;
20_memory.md R46, R47). -/
def Obligations.CommandByteTellsTheTransaction : Prop :=
  ∀ f : Flight, ∃ (cmd : Byte) (rest : List XStep), f.steps = .write [cmd] :: rest ∧
    ((rest = [] ∧ dataPhase cmd = some .nothing) ∨
      (∃ n, rest = [.read n] ∧ dataPhase cmd = some (.fromDevice n)) ∨
      (∃ bs, rest = [.write bs] ∧ dataPhase cmd = some (.toDevice bs.length)))

/-! ### SXT: the sample decoder -/

/-- The sample is the two's-complement value of the three bytes, most significant first: assembly
(42_sample_decoder.md R120), sign extension of every raw value with its low 24 bits kept (R121), and
their composition (R122). -/
def Obligations.SampleIsTwosComplement : Prop :=
  (∀ b0 b1 b2 : Byte,
    (assemble24 b0 b1 b2).toNat = b0.toNat * 65536 + b1.toNat * 256 + b2.toNat) ∧
  (∀ raw : Raw24,
    (sext24 raw).toInt =
      (if raw.toNat < 8388608 then (raw.toNat : Int) else (raw.toNat : Int) - 16777216) ∧
    (sext24 raw).setWidth 24 = raw) ∧
  (∀ b0 b1 b2 : Byte, decodeSample b0 b1 b2 = sext24 (assemble24 b0 b1 b2) ∧
    (decodeSample b0 b1 b2).toInt =
      if b0.toNat < 128 then ((b0.toNat * 65536 + b1.toNat * 256 + b2.toNat : Nat) : Int)
      else ((b0.toNat * 65536 + b1.toNat * 256 + b2.toNat : Nat) : Int) - 16777216)

/-- The laws of the decoder (42_sample_decoder.md R123 (a), (b), (d)): it is injective, its range is
-8388608 to 8388607 and all of it, and it is negative exactly when `b0 >= 0x80`. -/
def Obligations.SampleDecoderLaws : Prop :=
  (∀ b0 b1 b2 c0 c1 c2 : Byte, decodeSample b0 b1 b2 = decodeSample c0 c1 c2 →
    b0 = c0 ∧ b1 = c1 ∧ b2 = c2) ∧
  (∀ n : Int, (-8388608 ≤ n ∧ n ≤ 8388607) ↔
    ∃ b0 b1 b2 : Byte, (decodeSample b0 b1 b2).toInt = n) ∧
  (∀ b0 b1 b2 : Byte, (decodeSample b0 b1 b2).toInt < 0 ↔ 0x80 ≤ b0.toNat)

/-! ### SEQ: the operations

Each statement gives the whole next state of an accepted request, for the three things its
environment can do: answer with success, answer with an error, or not answer in this step. That an
answer or a delivery at hand is taken in the same step, and the form of the record, are the model's
(log entries 1, 3, 5 and 19). The legal codes of a field are those of the setting of `NCODES` the block
was made with, whatever it is (`State.ncodes`, log entry 6). -/

/-- RESET (43_operations.md R131): sends 0x06; on success the image returns to 0x00 and all flags
clear; on failure the image is unchanged, all flags set, and the error is passed on; unanswered, the
block waits. -/
def Obligations.ResetOperation : Prop :=
  ∀ s : State, s.busy = .idle →
    (∀ b0 b1 b2 rest, s.events = .answer (.ok b0 b1 b2) :: rest →
      exec .reset s = .next (succeeded [.write [0x06#8]] [] .nothing rest
        { s with img := ⟨0x00#8, 0x00#8, 0x00#8, 0x00#8⟩, stale := 0b0000#4 })) ∧
    (∀ e rest, s.events = .answer (.err e) :: rest →
      exec .reset s = .next (failed [.write [0x06#8]] e rest { s with stale := 0b1111#4 })) ∧
    ((∀ a rest, s.events ≠ .answer a :: rest) →
      exec .reset s = .next (awaiting .reset [.write [0x06#8]] s))

/-- START (43_operations.md R132): sends 0x08; changes neither the image nor a flag, on success or on
failure. -/
def Obligations.StartOperation : Prop :=
  ∀ s : State, s.busy = .idle →
    (∀ b0 b1 b2 rest, s.events = .answer (.ok b0 b1 b2) :: rest →
      exec .start s = .next (succeeded [.write [0x08#8]] [] .nothing rest s)) ∧
    (∀ e rest, s.events = .answer (.err e) :: rest →
      exec .start s = .next (failed [.write [0x08#8]] e rest s)) ∧
    ((∀ a rest, s.events ≠ .answer a :: rest) →
      exec .start s = .next (awaiting .start [.write [0x08#8]] s))

/-- POWERDOWN (43_operations.md R133): sends 0x02; changes neither the image nor a flag, on success or
on failure. -/
def Obligations.PowerdownOperation : Prop :=
  ∀ s : State, s.busy = .idle →
    (∀ b0 b1 b2 rest, s.events = .answer (.ok b0 b1 b2) :: rest →
      exec .powerdown s = .next (succeeded [.write [0x02#8]] [] .nothing rest s)) ∧
    (∀ e rest, s.events = .answer (.err e) :: rest →
      exec .powerdown s = .next (failed [.write [0x02#8]] e rest s)) ∧
    ((∀ a rest, s.events ≠ .answer a :: rest) →
      exec .powerdown s = .next (awaiting .powerdown [.write [0x02#8]] s))

/-- RDATA (43_operations.md R134): sends 0x10 and reads three bytes; answers the sign extension of
the three bytes joined most significant first; changes neither the image nor a flag. -/
def Obligations.RdataOperation : Prop :=
  ∀ s : State, s.busy = .idle →
    (∀ b0 b1 b2 rest, s.events = .answer (.ok b0 b1 b2) :: rest →
      exec .rdata s = .next (succeeded [.write [0x10#8], .read 3] [[b0, b1, b2]]
        (.sample ((b0 ++ b1 ++ b2 : BitVec 24).signExtend 32)) rest s)) ∧
    (∀ e rest, s.events = .answer (.err e) :: rest →
      exec .rdata s = .next (failed [.write [0x10#8], .read 3] e rest s)) ∧
    ((∀ a rest, s.events ≠ .answer a :: rest) →
      exec .rdata s = .next (awaiting .rdata [.write [0x10#8], .read 3] s))

/-- RREG (43_operations.md R135): sends `0x20 + 4 * addr` and reads one byte, which it answers raw;
changes neither the image nor a flag. -/
def Obligations.RregOperation : Prop :=
  ∀ (r : Reg) (s : State), s.busy = .idle →
    ∃ cmd : Byte, cmd.toNat = 0x20 + 4 * r.addr.toNat ∧
    (∀ b0 b1 b2 rest, s.events = .answer (.ok b0 b1 b2) :: rest →
      exec (.rreg r) s = .next (succeeded [.write [cmd], .read 1] [[b0]] (.byte b0) rest s)) ∧
    (∀ e rest, s.events = .answer (.err e) :: rest →
      exec (.rreg r) s = .next (failed [.write [cmd], .read 1] e rest s)) ∧
    ((∀ a rest, s.events ≠ .answer a :: rest) →
      exec (.rreg r) s = .next (awaiting (.rreg r) [.write [cmd], .read 1] s))

/-- The setters of CONFIG0: SETF.MUX, SETF.PGA_GAIN, SETF.PGA_BYPASS (43_operations.md R137, R138,
R139). -/
def Obligations.SettersOfConfig0 : Prop :=
  SetterRule (fun code => exec (.setfMux code)) (·.of .mux) .config0 0x40#8 0x0F#8 4 0b0001#4 ∧
  SetterRule (fun code => exec (.setfPgaGain code)) (·.of .pgaGain) .config0 0x40#8 0xF1#8 1 0b0001#4 ∧
  SetterRule (fun code => exec (.setfPgaBypass code)) (·.of .pgaBypass) .config0 0x40#8 0xFE#8 0 0b0001#4

/-- The setters of CONFIG1: SETF.DR, SETF.MODE, SETF.CM, SETF.TS, SETF.BCS (43_operations.md R140 to
R144). -/
def Obligations.SettersOfConfig1 : Prop :=
  SetterRule (fun code => exec (.setfDr code)) (·.of .dr) .config1 0x44#8 0x1F#8 5 0b0010#4 ∧
  SetterRule (fun code => exec (.setfMode code)) (·.of .mode) .config1 0x44#8 0xE7#8 3 0b0010#4 ∧
  SetterRule (fun code => exec (.setfCm code)) (·.of .cm) .config1 0x44#8 0xFB#8 2 0b0010#4 ∧
  SetterRule (fun code => exec (.setfTs code)) (·.of .ts) .config1 0x44#8 0xFD#8 1 0b0010#4 ∧
  SetterRule (fun code => exec (.setfBcs code)) (·.of .bcs) .config1 0x44#8 0xFE#8 0 0b0010#4

/-- The setters of CONFIG2: SETF.VREF, SETF.FILTER, SETF.PSW, SETF.IDAC (43_operations.md R145 to
R148). -/
def Obligations.SettersOfConfig2 : Prop :=
  SetterRule (fun code => exec (.setfVref code)) (·.of .vref) .config2 0x48#8 0x3F#8 6 0b0100#4 ∧
  SetterRule (fun code => exec (.setfFilter code)) (·.of .filter) .config2 0x48#8 0xCF#8 4 0b0100#4 ∧
  SetterRule (fun code => exec (.setfPsw code)) (·.of .psw) .config2 0x48#8 0xF7#8 3 0b0100#4 ∧
  SetterRule (fun code => exec (.setfIdac code)) (·.of .idac) .config2 0x48#8 0xF8#8 0 0b0100#4

/-- The setters of CONFIG3: SETF.I1MUX, SETF.I2MUX, SETF.DRDYM (43_operations.md R149, R150, R151). -/
def Obligations.SettersOfConfig3 : Prop :=
  SetterRule (fun code => exec (.setfI1mux code)) (·.of .i1mux) .config3 0x4C#8 0x1F#8 5 0b1000#4 ∧
  SetterRule (fun code => exec (.setfI2mux code)) (·.of .i2mux) .config3 0x4C#8 0xE3#8 2 0b1000#4 ∧
  SetterRule (fun code => exec (.setfDrdym code)) (·.of .drdym) .config3 0x4C#8 0xFD#8 1 0b1000#4

/-- Every setter, against the codec (43_operations.md R136): an accepted `SETF.f code` whose
`UPDATE_FIELD` on the image byte of the field's register is `new` sends `[ENC_WREG(REG[f], 1), new]`,
and commits `new` on success only. -/
def Obligations.SetterCommitsTheUpdatedByte : Prop :=
  ∀ (f : BitField) (code new cmd : Byte) (s : State), s.busy = .idle →
    updateField s.ncodes f.id code (s.img.get f.reg) = some new →
    encWreg f.reg.addrByte 1#8 = some cmd →
    (∀ b0 b1 b2 rest, s.events = .answer (.ok b0 b1 b2) :: rest →
      exec (.setter f code) s = .next (succeeded [.write [cmd], .write [new]] [] .nothing rest
        { s with img := s.img.set f.reg new, stale := clearStale s.stale f.reg })) ∧
    (∀ e rest, s.events = .answer (.err e) :: rest →
      exec (.setter f code) s = .next (failed [.write [cmd], .write [new]] e rest
        { s with stale := markStale s.stale f.reg }))

/-- A register of the image holds what was last written to it, and a write leaves the other three
alone (10_state.md R10). -/
def Obligations.ImageReadAfterWrite : Prop :=
  ∀ (m : Image) (r q : Reg) (v : Byte),
    (m.set r v).get r = v ∧ (q ≠ r → (m.set r v).get q = m.get q)

/-- Setting and clearing one stale flag leaves the other three unchanged (10_state.md R14). -/
def Obligations.StaleFlagsMoveAlone : Prop :=
  ∀ (flags : BitVec 4) (r q : Reg),
    isStale (markStale flags r) r = true ∧ isStale (clearStale flags r) r = false ∧
    (q ≠ r → isStale (markStale flags r) q = isStale flags q ∧
      isStale (clearStale flags r) q = isStale flags q)

/-- After a successful setter the field decodes to the code that was set, and every other field of
every register decodes as before (43_operations.md R152 (a)). -/
def Obligations.SetterSetsItsFieldAlone : Prop :=
  ∀ (f g : BitField) (code b0 b1 b2 : Byte) (s : State) (rest : List EnvEvent), s.busy = .idle →
    code.toNat < s.ncodes.of f → s.events = .answer (.ok b0 b1 b2) :: rest →
    ∃ t, exec (.setter f code) s = .next t ∧
      decodeField f.id (t.img.get f.reg) = some code ∧
      (g ≠ f → decodeField g.id (t.img.get g.reg) = decodeField g.id (s.img.get g.reg))

/-- Setters of two different fields commute in their effect on the image, and of two setters of one
field the last one wins (43_operations.md R152 (b), (c), (d)): setting f then g, and g then f, from
one image. -/
def Obligations.SettersCommute : Prop :=
  ∀ (f g : BitField) (c d : Byte) (s t u v w : State),
    c.toNat < s.ncodes.of f → d.toNat < s.ncodes.of g →
    AfterSetter f c s t → AfterSetter g d t u → AfterSetter g d s v → AfterSetter f c v w →
      (f ≠ g → u.img = w.img) ∧ (f = g → u.img = v.img)

/-- A failed operation changes no image byte, whatever operation it is (43_operations.md R152 (f),
60_exceptions.md R164), and answers the transport error unmodified (R162). -/
def Obligations.FailedTransactionLeavesImage : Prop :=
  ∀ (i : Instr) (s : State) (e : Config.E) (rest : List EnvEvent), s.busy = .idle → i.wf s.ncodes = true →
    portOfCommand i = none → s.events = .answer (.err e) :: rest →
    ∃ (t : State) (older : List PortEvent), exec i s = .next t ∧ t.img = s.img ∧ t.busy = .idle ∧
      t.events = rest ∧ t.trace = .responded (.err (.transportError e)) :: older

/-! ### Requests, answers, block reset: the step -/

/-- When the request word presented to an idle block decodes to an operation, the step is that
operation's meaning, in the state in which the word has been taken and its acceptance recorded
(43_operations.md R130 actions 1 to 3). -/
def Obligations.StepRunsTheDecodedRequest : Prop :=
  ∀ (s : State) (w : RequestWord) (rest : List EnvEvent) (i : Instr),
    s.events = .request w :: rest → s.busy = .idle → decode s.ncodes (.request w) = .ok i →
    step s = exec i { s with events := rest, trace := .accepted w :: s.trace }

/-- A row's word placed for the next step runs as the operation it encodes: a request word is accepted
and runs, a wire byte is a use of its CMD port (30_encoding.md R76; log entry 11). -/
def Obligations.PlacedWordRuns : Prop :=
  ∀ (i : Instr) (s : State), i.wf s.ncodes = true →
    (∀ w : RequestWord, encode i = .request w →
      step (s.withFetchWord 16 w.toNat) =
        exec i { s with busy := .idle, trace := .accepted w :: s.trace }) ∧
    (∀ b : Byte, encode i = .command b →
      step (s.withFetchWord 8 b.toNat) = exec i { s with busy := .idle })

/-- An invalid request word is accepted and answered InvalidArgument: no transaction, nothing changed,
the next request finds the block ready (43_operations.md R154), and `BUSY` is 1 from the acceptance to
the delivery of the response, however long that takes (10_state.md R15). The event that delivers it,
its being taken in the same step where it is next, and the recorded entries are the model's (log
entries 1, 3, 5 and 19). -/
def Obligations.InvalidRequestIsAnswered : Prop :=
  (∀ (s : State) (w : RequestWord) (rest : List EnvEvent) (e : DecodeError),
    s.events = .request w :: rest → s.busy = .idle → decodeRequest s.ncodes w = .error e →
    (∀ tail, rest = .deliver :: tail →
      step s = .next (rejected tail { s with trace := .accepted w :: s.trace })) ∧
    ((∀ tail, rest ≠ .deliver :: tail) →
      step s = .next
        { s with busy := .rejecting, events := rest, trace := .accepted w :: s.trace })) ∧
  (∀ s : State, s.busy = .rejecting → s.busy.bit = 1#1 ∧
    (s.events = [] → step s = .next (rejected [] s)) ∧
    (∀ rest, s.events = .deliver :: rest → step s = .next (rejected rest s)) ∧
    (∀ e rest, s.events = e :: rest → e ≠ .deliver → e ≠ .blockReset →
      ∃ t, step s = .next t ∧ SameBlock s t ∧ t.events = rest ∧
        respondedCount t.trace = respondedCount s.trace))

/-- While `BUSY = 1`, for a request in flight or a rejected one alike, no request is accepted: a request
presented then is not queued and not remembered (10_state.md R15, R26; 70_reset_and_hazards.md R192;
log entry 17), and no request-level operation runs. -/
def Obligations.BusyBlockTurnsRequestsAway : Prop :=
  ∀ s : State, s.busy ≠ .idle →
    (∀ w rest, s.events = .request w :: rest → step s = .next { s with events := rest }) ∧
    (∀ i : Instr, portOfCommand i = none → exec i s = .next s)

/-- The answer to the transaction in flight completes the operation with the changes of the effects
table of 60_exceptions.md R164, delivers one response, and `BUSY` falls (43_operations.md R130 actions
5 and 6). -/
def Obligations.AnswerCompletesTheOperation : Prop :=
  ∀ (s : State) (f : Flight) (rest : List EnvEvent), s.busy = .inFlight f →
    (∀ b0 b1 b2, s.events = .answer (.ok b0 b1 b2) :: rest → ∃ t, step s = .next t ∧
      t.busy = .idle ∧ t.events = rest ∧
      (f = .reset → t.img = ⟨0x00#8, 0x00#8, 0x00#8, 0x00#8⟩ ∧ t.stale = 0b0000#4) ∧
      (∀ r new, f = .setf r new → t.img = s.img.set r new ∧ t.stale = clearStale s.stale r) ∧
      (f ≠ .reset → (∀ r new, f ≠ .setf r new) → t.img = s.img ∧ t.stale = s.stale) ∧
      ∃ v, t.trace = .responded (.ok v) ::
        .answered f.steps (.ok (receivedBy f.steps [b0, b1, b2])) :: s.trace ∧
        (f = .rdata → v = .sample (decodeSample b0 b1 b2)) ∧
        (∀ r, f = .rreg r → v = .byte b0) ∧
        (f ≠ .rdata → (∀ r, f ≠ .rreg r) → v = .nothing)) ∧
    (∀ e, s.events = .answer (.err e) :: rest → ∃ t, step s = .next t ∧
      t.busy = .idle ∧ t.events = rest ∧ t.img = s.img ∧
      (f = .reset → t.stale = 0b1111#4) ∧
      (∀ r new, f = .setf r new → t.stale = markStale s.stale r) ∧
      (f ≠ .reset → (∀ r new, f ≠ .setf r new) → t.stale = s.stale) ∧
      t.trace = .responded (.err (.transportError e)) :: .answered f.steps (.err e) :: s.trace)

/-- A transaction that is not answered leaves the block waiting: with no event nothing changes at all,
and no event but an answer or block reset changes the image, a flag or `BUSY`, or delivers a response
(60_exceptions.md R174). -/
def Obligations.UnansweredTransactionWaits : Prop :=
  ∀ (s : State) (f : Flight), s.busy = .inFlight f →
    (s.events = [] → step s = .next s) ∧
    (∀ e rest, s.events = e :: rest → (∀ a, e ≠ .answer a) → e ≠ .blockReset →
      ∃ t, step s = .next t ∧ SameBlock s t ∧ t.events = rest ∧
        respondedCount t.trace = respondedCount s.trace)

/-- Block reset (70_reset_and_hazards.md R181): the image is 0x00, no flag is set, `BUSY` is 0; no
transaction is performed, and an operation in flight or a rejected request is abandoned without a
response. -/
def Obligations.BlockResetEvent : Prop :=
  ∀ (s : State) (rest : List EnvEvent), s.events = .blockReset :: rest →
    step s = .next { s with
      img := ⟨0x00#8, 0x00#8, 0x00#8, 0x00#8⟩
      stale := 0b0000#4
      busy := .idle
      events := rest
      trace := .blockReset s.busy :: s.trace }

/-- What block reset leaves (10_state.md R24): the four image bytes 0x00, the flags 0b0000, `BUSY` 0,
and every field of every register code 0. -/
def Obligations.ResetStateValues : Prop :=
  (∀ r : Reg, State.reset.img.get r = 0x00#8) ∧ State.reset.stale = 0b0000#4 ∧
    State.reset.busy = .idle ∧ State.reset.busy.bit = 0#1 ∧
    ∀ f : BitField, decodeField f.id (State.reset.img.get f.reg) = some 0#8

/-- Every pure-function port shows its outputs in every state, `BUSY = 1` among them, and no state of
the block is read or written: the outputs depend on the operands alone, under the setting of the
parameter `NCODES` the block was made with (00_scope.md R3, R4, 10_state.md R30, 40_bitfield.md R106
(f)). -/
def Obligations.PortsTouchNoState : Prop :=
  ∀ (s : State) (c : PortCall) (rest : List EnvEvent), s.events = .port c :: rest →
    step s = .next { s with
      events := rest, trace := .portShown c (c.output s.ncodes) :: s.trace }

/-! ### The whole machine -/

/-- No operation and no event stops the block: every step has a next state (43_operations.md R155,
60_exceptions.md R166), in which the parameter `NCODES` is as it was (00_scope.md R3). -/
def Obligations.NothingStopsTheBlock : Prop :=
  (∀ s : State, ∃ t, step s = .next t ∧ t.ncodes = s.ncodes) ∧
    (∀ (i : Instr) (s : State), ∃ t, exec i s = .next t ∧ t.ncodes = s.ncodes)

/-- What each class of operation leaves unchanged, in every state and whatever the environment
answers (60_exceptions.md R164, 10_state.md R12, R14, 43_operations.md R156). A use of a CMD port
leaves the block as it is. RDATA, RREG, START and POWERDOWN leave image and flags. A setter leaves the
three other image bytes and flags. No operation takes more from the environment than its one answer or
the delivery of its rejection, the parameter stays, and what stood in the record stays. -/
def Obligations.OperationFrame : Prop :=
  ∀ (i : Instr) (s t : State), exec i s = .next t →
    (i.opClass = .port → SameBlock s t ∧ t.events = s.events) ∧
    ((i = .start ∨ i = .powerdown ∨ i.opClass = .load) → t.img = s.img ∧ t.stale = s.stale) ∧
    (∀ (f : BitField) (code : Byte), i = .setter f code → ∀ r : Reg, r ≠ f.reg →
      t.img.get r = s.img.get r ∧ isStale t.stale r = isStale s.stale r) ∧
    (t.events = s.events ∨ (∃ a, s.events = .answer a :: t.events) ∨
      s.events = .deliver :: t.events) ∧
    t.ncodes = s.ncodes ∧
    (∃ new, t.trace = new ++ s.trace)

/-- The image is written in three places only (10_state.md R12): block reset, a successful RESET, and
a successful SETF, which writes the byte it sent to the register it sent it to. -/
def Obligations.ImageIsWrittenOnlyByRule : Prop :=
  ∀ s t : State, step s = .next t → t.img ≠ s.img →
    (∃ was older, t.trace = .blockReset was :: older ∧ t.img = Image.reset) ∨
    (∃ v received older, t.trace = .responded (.ok v) ::
      .answered [.write [0x06#8]] (.ok received) :: older ∧ t.img = Image.reset) ∨
    (∃ (v : Payload) (received : List (List Byte)) (older : List PortEvent) (r : Reg)
        (cmd new : Byte),
      t.trace = .responded (.ok v) :: .answered [.write [cmd], .write [new]] (.ok received) :: older ∧
      cmd.toNat = 0x40 + 4 * r.addr.toNat ∧ t.img = s.img.set r new)

/-- Nothing reads the record of the ports: with another record the same step happens, with the same
new entries (10_state.md R17: the block keeps no last sample, no last byte read, no last error; log
entry 5). -/
def Obligations.RecordIsNeverRead : Prop :=
  ∀ s t : State, step s = .next t → ∃ new : List PortEvent, t.trace = new ++ s.trace ∧
    ∀ other : List PortEvent,
      step { s with trace := other } = .next { t with trace := new ++ other }

/-- The reserved bit of CONFIG3 stays 0, in the image and in what is in flight (10_state.md R31). -/
def Obligations.StepKeepsReservedBitClear : Prop :=
  ∀ s t : State, ReservedBitClear s → step s = .next t → ReservedBitClear t

/-- Every step keeps the image equal to the bytes the device last acknowledged (10_state.md R32). -/
def Obligations.StepKeepsImageAcknowledged : Prop :=
  ∀ s t : State, MirrorsAcknowledged s → step s = .next t → MirrorsAcknowledged t

/-- Every step keeps `STALE` equal to the registers in doubt (10_state.md R14, 43_operations.md R152
(g)). -/
def Obligations.StepKeepsFlagsTellDoubt : Prop :=
  ∀ s t : State, FlagsTellDoubt s → step s = .next t → FlagsTellDoubt t

/-- Every step keeps: each accepted request has had exactly one response, is under way, or was dropped
by block reset (10_state.md R27). -/
def Obligations.StepKeepsOneResponseEach : Prop :=
  ∀ s t : State, EachRequestAnsweredOnce s → step s = .next t → EachRequestAnsweredOnce t

/-- Every step keeps: each transaction handed over has been answered once, is the one in flight, or
was dropped by block reset (20_memory.md R49, 43_operations.md R130 action 4). -/
def Obligations.StepKeepsOneTransactionAtATime : Prop :=
  ∀ s t : State, EachTransactionAnsweredOnce s → step s = .next t → EachTransactionAnsweredOnce t

/-- Every step keeps: a faithful converter that began at its defaults agrees with the image on every
register whose flag is clear (10_state.md R14; premise of 70_reset_and_hazards.md R182; the faithful
converter is the model's relation of log entry 14). -/
def Obligations.StepKeepsFaithfulDeviceAgreement : Prop :=
  ∀ s t : State, FaithfulDeviceAgrees s → step s = .next t → FaithfulDeviceAgrees t

/-- The six invariants hold right after block reset. -/
def Obligations.InvariantsHoldAtReset : Prop :=
  ReservedBitClear State.reset ∧ MirrorsAcknowledged State.reset ∧ FlagsTellDoubt State.reset ∧
    EachRequestAnsweredOnce State.reset ∧ EachTransactionAnsweredOnce State.reset ∧
    FaithfulDeviceAgrees State.reset

/-! ### Ports and the converter's lifecycle -/

/-- The bit-level response (30_encoding.md R72): status 0 with the data word, status 1 with the error
value unmodified, status 2; an output without meaning has no value; status 3 is never produced. -/
def Obligations.ResponseSignalsTable : Prop :=
  (Response.signals (.ok .nothing) = ⟨0#2, some 0x00000000#32, none⟩) ∧
  (∀ v : Byte, Response.signals (.ok (.byte v)) = ⟨0#2, some (0#24 ++ v), none⟩) ∧
  (∀ x : Word32, Response.signals (.ok (.sample x)) = ⟨0#2, some x, none⟩) ∧
  (∀ e : Config.E, Response.signals (.err (.transportError e)) = ⟨1#2, none, some e⟩) ∧
  (Response.signals (.err .invalidArgument) = ⟨2#2, none, none⟩) ∧
  (∀ r : Response, (Response.signals r).status ≠ 3#2)

/-- The observation port shows exactly the image, the flags and the `BUSY` bit, and `req_ready` is the
complement of `BUSY` (10_state.md R26, R29). -/
def Obligations.ObservationPort : Prop :=
  (∀ s : State, s.observe = ⟨s.img.config0, s.img.config1, s.img.config2, s.img.config3, s.stale,
    s.busy.bit⟩ ∧ (s.reqReady = 1#1 ↔ s.busy = .idle)) ∧
  (∀ s t : State, s.observe = t.observe → s.img = t.img ∧ s.stale = t.stale ∧
    s.reqReady = t.reqReady)

/-- The lifecycle of the converter has the transitions the document states and no other
(60_exceptions.md R170). -/
def Obligations.LifecycleTransitions : Prop :=
  ∀ (l m : Lifecycle) (e : LifecycleEvent), l.next? e = some m ↔
    (e = .powerUp ∧ m = .uninitialized) ∨
    (e = .resetAccepted ∧ m = .uninitialized) ∨
    (l = .uninitialized ∧ e = .registerWrite ∧ m = .configured) ∨
    ((l = .configured ∨ l = .idle) ∧ e = .start .continuous ∧ m = .converting) ∨
    ((l = .configured ∨ l = .idle) ∧ e = .start .single ∧ m = .singleShotPending) ∨
    (l = .singleShotPending ∧ e = .conversionConsumed ∧ m = .idle) ∨
    (e = .powerdown ∧ m = .idle)
end

