-- ==== Sys2Proof/Laws/Codec.lean ====
section
/-! SUPPORT. Small facts of the field table, the codec and the command encoder. -/

namespace Sys2Proof.Machine

theorem ofId_id (f : BitField) : BitField.ofId f.id = some f := by cases f <;> rfl

theorem id_of_ofId (n : BitVec 4) (f : BitField) (h : BitField.ofId n = some f) : f.id = n := by
  revert n f
  decide +revert

theorem ofId_none (n : BitVec 4) : BitField.ofId n = none ↔ n = 15#4 := by
  revert n
  decide

/-- `UPDATE_FIELD` on a named field: refused, or the field cleared and the code put in its place. -/
theorem updateField_field (nc : Config.NCodes) (f : BitField) (code byte : Byte) :
    updateField nc f.id code byte =
      if legalCode nc f code then some (applyField byte f.mask (code <<< f.off)) else none := by
  by_cases h : legalCode nc f code <;> simp [updateField, fieldMask, encodeBits, ofId_id, h]

/-- A code that fits its field stays inside the field's mask when shifted to its place
(40_bitfield.md R81). -/
theorem shifted_in_mask (f : BitField) (code : Byte) (h : code.toNat < 2 ^ f.width) :
    (code <<< f.off) &&& ~~~f.mask = 0#8 := by
  revert code
  cases f <;> decide

theorem legalCode_iff (nc : Config.NCodes) (f : BitField) (code : Byte) :
    legalCode nc f code = true ↔ code.toNat < nc.of f := by
  simp only [legalCode, decide_eq_true_eq]

/-- `NCODES[f] <= 2^W[f]` in every setting (30_encoding.md R71). -/
theorem ncodes_le (nc : Config.NCodes) (f : BitField) : nc.of f ≤ 2 ^ f.width := by
  cases f <;> simp only [Config.NCodes.of, BitField.width] <;> omega

/-- The default setting makes every code that fits the field legal (00_scope.md R3). -/
theorem ncodesDefault_of (f : BitField) : Config.ncodesDefault.of f = 2 ^ f.width := by
  cases f <;> rfl

/-- A code that is legal in some setting is legal in the default. -/
theorem legalCode_default (nc : Config.NCodes) (f : BitField) (code : Byte)
    (h : legalCode nc f code = true) : legalCode Config.ncodesDefault f code = true := by
  simp only [legalCode, decide_eq_true_eq, ncodesDefault_of] at h ⊢
  exact Nat.lt_of_lt_of_le h (ncodes_le nc f)

theorem commandDomain_iff (addr count : Byte) :
    commandDomain addr count = true ↔
      addr.toNat ≤ 3 ∧ 1 ≤ count.toNat ∧ count.toNat ≤ 4 := by
  simp only [commandDomain, Bool.and_eq_true, decide_eq_true_eq]
  simp only [Config.nreg, Config.maxCount]
  omega

/-- A register-transfer command's operands in its domain, one by one. -/
theorem commandDomain_values (addr count : Byte) (h : commandDomain addr count = true) :
    (addr = 0#8 ∨ addr = 1#8 ∨ addr = 2#8 ∨ addr = 3#8) ∧
      (count = 1#8 ∨ count = 2#8 ∨ count = 3#8 ∨ count = 4#8) := by
  rw [commandDomain_iff] at h
  have ha : addr.toNat = 0 ∨ addr.toNat = 1 ∨ addr.toNat = 2 ∨ addr.toNat = 3 := by omega
  have hn : count.toNat = 1 ∨ count.toNat = 2 ∨ count.toNat = 3 ∨ count.toNat = 4 := by omega
  exact ⟨by simpa [← BitVec.toNat_inj] using ha, by simpa [← BitVec.toNat_inj] using hn⟩

/-- Decoding a field of a byte to which an update of the same register was applied. -/
theorem decode_applyField (f : BitField) (b c : Byte) (h : c.toNat < 2 ^ f.width) :
    (applyField b f.mask (c <<< f.off) &&& f.mask) >>> f.off = c := by
  have masked : applyField b f.mask (c <<< f.off) &&& f.mask = (c <<< f.off) &&& f.mask := by
    ext i hi
    simp only [applyField, BitVec.getElem_and, BitVec.getElem_or, BitVec.getElem_not]
    cases b[i] <;> cases f.mask[i] <;> simp
  rw [masked]
  clear masked b
  revert c
  cases f <;> decide

end Sys2Proof.Machine
end

