-- ==== Sys2Proof/Laws/State.lean ====
section
/-! SUPPORT. The fields of a state after each update of Machine/Ops.lean, one lemma for each field
and update. -/

namespace Sys2Proof.Machine

variable (s : State)

@[simp] theorem record_img (e : PortEvent) : (s.record e).img = s.img := rfl
@[simp] theorem record_stale (e : PortEvent) : (s.record e).stale = s.stale := rfl
@[simp] theorem record_busy (e : PortEvent) : (s.record e).busy = s.busy := rfl
@[simp] theorem record_ncodes (e : PortEvent) : (s.record e).ncodes = s.ncodes := rfl
@[simp] theorem record_events (e : PortEvent) : (s.record e).events = s.events := rfl
@[simp] theorem record_trace (e : PortEvent) : (s.record e).trace = e :: s.trace := rfl

@[simp] theorem respond_img (r : Response) : (respond r s).img = s.img := rfl
@[simp] theorem respond_stale (r : Response) : (respond r s).stale = s.stale := rfl
@[simp] theorem respond_busy (r : Response) : (respond r s).busy = .idle := rfl
@[simp] theorem respond_ncodes (r : Response) : (respond r s).ncodes = s.ncodes := rfl
@[simp] theorem respond_events (r : Response) : (respond r s).events = s.events := rfl
@[simp] theorem respond_trace (r : Response) : (respond r s).trace = .responded r :: s.trace := rfl

@[simp] theorem raise_img (e : BlockError) : (raise e s).img = s.img := rfl
@[simp] theorem raise_stale (e : BlockError) : (raise e s).stale = s.stale := rfl
@[simp] theorem raise_busy (e : BlockError) : (raise e s).busy = .idle := rfl
@[simp] theorem raise_ncodes (e : BlockError) : (raise e s).ncodes = s.ncodes := rfl
@[simp] theorem raise_events (e : BlockError) : (raise e s).events = s.events := rfl
@[simp] theorem raise_trace (e : BlockError) :
    (raise e s).trace = .responded (.err e) :: s.trace := rfl

@[simp] theorem rejectInvalid_img : (rejectInvalid s).img = s.img := rfl
@[simp] theorem rejectInvalid_stale : (rejectInvalid s).stale = s.stale := rfl
@[simp] theorem rejectInvalid_busy : (rejectInvalid s).busy = .idle := rfl
@[simp] theorem rejectInvalid_ncodes : (rejectInvalid s).ncodes = s.ncodes := rfl
@[simp] theorem rejectInvalid_events : (rejectInvalid s).events = s.events := rfl
@[simp] theorem rejectInvalid_trace :
    (rejectInvalid s).trace = .responded (.err .invalidArgument) :: s.trace := rfl

@[simp] theorem onSuccess_busy (f : Flight) : (f.onSuccess s).busy = s.busy := by cases f <;> rfl
@[simp] theorem onSuccess_ncodes (f : Flight) : (f.onSuccess s).ncodes = s.ncodes := by
  cases f <;> rfl
@[simp] theorem onSuccess_events (f : Flight) : (f.onSuccess s).events = s.events := by
  cases f <;> rfl
@[simp] theorem onSuccess_trace (f : Flight) : (f.onSuccess s).trace = s.trace := by cases f <;> rfl

@[simp] theorem onFailure_img (f : Flight) : (f.onFailure s).img = s.img := by cases f <;> rfl
@[simp] theorem onFailure_busy (f : Flight) : (f.onFailure s).busy = s.busy := by cases f <;> rfl
@[simp] theorem onFailure_ncodes (f : Flight) : (f.onFailure s).ncodes = s.ncodes := by
  cases f <;> rfl
@[simp] theorem onFailure_events (f : Flight) : (f.onFailure s).events = s.events := by
  cases f <;> rfl
@[simp] theorem onFailure_trace (f : Flight) : (f.onFailure s).trace = s.trace := by cases f <;> rfl

@[simp] theorem blockReset_img : (blockReset s).img = Image.reset := rfl
@[simp] theorem blockReset_stale : (blockReset s).stale = noneStale := rfl
@[simp] theorem blockReset_busy : (blockReset s).busy = .idle := rfl
@[simp] theorem blockReset_ncodes : (blockReset s).ncodes = s.ncodes := rfl
@[simp] theorem blockReset_events : (blockReset s).events = s.events := rfl
@[simp] theorem blockReset_trace : (blockReset s).trace = .blockReset s.busy :: s.trace := rfl

@[simp] theorem usePort_img (c : PortCall) : (usePort c s).img = s.img := rfl
@[simp] theorem usePort_stale (c : PortCall) : (usePort c s).stale = s.stale := rfl
@[simp] theorem usePort_busy (c : PortCall) : (usePort c s).busy = s.busy := rfl
@[simp] theorem usePort_ncodes (c : PortCall) : (usePort c s).ncodes = s.ncodes := rfl
@[simp] theorem usePort_events (c : PortCall) : (usePort c s).events = s.events := rfl
@[simp] theorem usePort_trace (c : PortCall) :
    (usePort c s).trace = .portShown c (c.output s.ncodes) :: s.trace := rfl

@[simp] theorem placeNext_img (e : EnvEvent) : (placeNext e s).img = s.img := rfl
@[simp] theorem placeNext_stale (e : EnvEvent) : (placeNext e s).stale = s.stale := rfl
@[simp] theorem placeNext_busy (e : EnvEvent) : (placeNext e s).busy = .idle := rfl
@[simp] theorem placeNext_ncodes (e : EnvEvent) : (placeNext e s).ncodes = s.ncodes := rfl
@[simp] theorem placeNext_events (e : EnvEvent) : (placeNext e s).events = e :: s.events := rfl
@[simp] theorem placeNext_trace (e : EnvEvent) : (placeNext e s).trace = s.trace := rfl

end Sys2Proof.Machine
end

