-- ==== Sys2Proof/Laws/Ops.lean ====
section
/-! SUPPORT. What each shared operation can do, said once. -/

namespace Sys2Proof.Machine

/-! ### The image and the flags -/

theorem get_set_same (m : Image) (r : Reg) (v : Byte) : (m.set r v).get r = v := by
  cases r <;> rfl

theorem get_set_other (m : Image) (r q : Reg) (v : Byte) (h : q ≠ r) :
    (m.set r v).get q = m.get q := by
  cases r <;> cases q <;> first | rfl | exact absurd rfl h

theorem image_ext_get (m n : Image) (h : ∀ r : Reg, m.get r = n.get r) : m = n := by
  cases m
  cases n
  have h0 := h .config0
  have h1 := h .config1
  have h2 := h .config2
  have h3 := h .config3
  simp only [Image.get] at h0 h1 h2 h3
  rw [h0, h1, h2, h3]

theorem isStale_markStale (flags : BitVec 4) (r q : Reg) :
    isStale (markStale flags r) q = (isStale flags q || decide (q = r)) := by
  revert flags
  cases r <;> cases q <;> decide

theorem isStale_clearStale (flags : BitVec 4) (r q : Reg) :
    isStale (clearStale flags r) q = (isStale flags q && !decide (q = r)) := by
  revert flags
  cases r <;> cases q <;> decide

theorem isStale_allStale (r : Reg) : isStale allStale r = true := by cases r <;> rfl

theorem isStale_noneStale (r : Reg) : isStale noneStale r = false := by cases r <;> rfl

/-! ### Transactions -/

/-- The command byte of a one-register read (43_operations.md R135). -/
theorem encRreg_reg (r : Reg) :
    encRreg r.addrByte Config.opCount
      = some (match r with | .config0 => 0x20 | .config1 => 0x24 | .config2 => 0x28 | .config3 => 0x2C) := by
  cases r <;> rfl

/-- The command byte of a one-register write (43_operations.md R136). -/
theorem encWreg_reg (r : Reg) :
    encWreg r.addrByte Config.opCount
      = some (match r with | .config0 => 0x40 | .config1 => 0x44 | .config2 => 0x48 | .config3 => 0x4C) := by
  cases r <;> rfl

/-- What each operation's transaction asks of the converter's registers. -/
theorem wireEffect_steps (f : Flight) :
    wireEffect f.steps = match f with
      | .reset => .resetAll
      | .setf r new => .writeReg r new
      | _ => .nothing := by
  cases f with
  | setf r new => cases r <;> rfl
  | rreg r => cases r <;> rfl
  | _ => rfl

/-- What completing an operation does, field by field. -/
theorem complete_ok (f : Flight) (b0 b1 b2 : Byte) (s : State) :
    complete f (.ok b0 b1 b2) s = { s with
      img := (f.onSuccess s).img
      stale := (f.onSuccess s).stale
      busy := .idle
      trace := .responded (.ok (f.payload b0 b1 b2)) ::
        .answered f.steps (.ok (receivedBy f.steps [b0, b1, b2])) :: s.trace } := by
  cases f <;> rfl

theorem complete_err (f : Flight) (e : Config.E) (s : State) :
    complete f (.err e) s = { s with
      stale := (f.onFailure s).stale
      busy := .idle
      trace := .responded (.err (.transportError e)) :: .answered f.steps (.err e) :: s.trace } := by
  cases f <;> rfl

theorem transact_answer (f : Flight) (s : State) (a : Answer) (rest : List EnvEvent)
    (h : s.events = .answer a :: rest) :
    transact f s = complete f a { s with
      busy := .inFlight f, events := rest, trace := .handedOver f.steps :: s.trace } := by
  simp [transact, h]

theorem transact_wait (f : Flight) (s : State)
    (h : ∀ a rest, s.events ≠ EnvEvent.answer a :: rest) :
    transact f s = { s with busy := .inFlight f, trace := .handedOver f.steps :: s.trace } := by
  unfold transact
  split
  · next a rest he => exact absurd he (h a rest)
  · rfl

/-- Handing a transaction over either completes it with the answer at hand or leaves the block
waiting. -/
theorem transact_cases (f : Flight) (s : State) :
    (∃ a rest, s.events = .answer a :: rest ∧
      transact f s = complete f a { s with
        busy := .inFlight f, events := rest, trace := .handedOver f.steps :: s.trace }) ∨
    ((∀ a rest, s.events ≠ EnvEvent.answer a :: rest) ∧
      transact f s = { s with busy := .inFlight f, trace := .handedOver f.steps :: s.trace }) := by
  by_cases h : ∃ a rest, s.events = EnvEvent.answer a :: rest
  · obtain ⟨a, rest, he⟩ := h
    exact .inl ⟨a, rest, he, transact_answer f s a rest he⟩
  · have h' : ∀ a rest, s.events ≠ EnvEvent.answer a :: rest := fun a rest he => h ⟨a, rest, he⟩
    exact .inr ⟨h', transact_wait f s h'⟩

theorem whenIdle_idle (op : State → State) (s : State) (h : s.busy = .idle) :
    whenIdle op s = .next (op s) := by
  simp [whenIdle, h]

theorem whenIdle_busy (op : State → State) (s : State) (h : s.busy ≠ .idle) :
    whenIdle op s = .next s := by
  cases hb : s.busy with
  | idle => exact absurd hb h
  | rejecting => simp [whenIdle, hb]
  | inFlight f => simp [whenIdle, hb]

theorem reject_deliver (s : State) (rest : List EnvEvent) (h : s.events = .deliver :: rest) :
    reject s = rejectInvalid { s with busy := .rejecting, events := rest } := by
  simp [reject, h]

theorem reject_wait (s : State) (h : ∀ rest, s.events ≠ EnvEvent.deliver :: rest) :
    reject s = { s with busy := .rejecting } := by
  unfold reject
  split
  · next rest he => exact absurd he (h rest)
  · rfl

/-- Rejecting a request either delivers the response at hand or leaves the block busy with it. -/
theorem reject_cases (s : State) :
    (∃ rest, s.events = .deliver :: rest ∧
      reject s = rejectInvalid { s with busy := .rejecting, events := rest }) ∨
    ((∀ rest, s.events ≠ EnvEvent.deliver :: rest) ∧ reject s = { s with busy := .rejecting }) := by
  by_cases h : ∃ rest, s.events = EnvEvent.deliver :: rest
  · obtain ⟨rest, he⟩ := h
    exact .inl ⟨rest, he, reject_deliver s rest he⟩
  · have h' : ∀ rest, s.events ≠ EnvEvent.deliver :: rest := fun rest he => h ⟨rest, he⟩
    exact .inr ⟨h', reject_wait s h'⟩

/-- A setter of an accepted request either is rejected or hands its one transaction over,
with the byte `UPDATE_FIELD` gives. -/
theorem setField_cases (f : BitField) (code : Byte) (s : State) :
    (updateField s.ncodes f.id code (s.img.get f.reg) = none ∧
      setField f code s = reject s) ∨
    (∃ new, updateField s.ncodes f.id code (s.img.get f.reg) = some new ∧
      setField f code s = transact (.setf f.reg new) s) := by
  unfold setField
  split
  · next h => exact .inl ⟨h, rfl⟩
  · next new h => exact .inr ⟨new, h, rfl⟩

/-- What an operation can do: use a CMD port, be turned away, be rejected, or hand one
transaction over; a setter's new byte is that of `UPDATE_FIELD`. -/
theorem exec_cases (i : Instr) (s : State) :
    (∃ c, portOfCommand i = some c ∧ exec i s = .next (usePort c s)) ∨
    (portOfCommand i = none ∧
      ((s.busy ≠ .idle ∧ exec i s = .next s) ∨
      (s.busy = .idle ∧ exec i s = .next (reject s)) ∨
      (s.busy = .idle ∧ ∃ f : Flight, exec i s = .next (transact f s) ∧
        ∀ r new, f = .setf r new → ∃ g : BitField, ∃ code, r = g.reg ∧
          i = .setter g code ∧
          updateField s.ncodes g.id code (s.img.get g.reg) = some new))) := by
  have setter : ∀ (g : BitField) (code : Byte),
      (portOfCommand (.setter g code) = none) →
      (exec (.setter g code) s = whenIdle (setField g code) s) →
      (∃ c, portOfCommand (.setter g code) = some c ∧
        exec (.setter g code) s = .next (usePort c s)) ∨
      (portOfCommand (.setter g code) = none ∧
        ((s.busy ≠ .idle ∧ exec (.setter g code) s = .next s) ∨
        (s.busy = .idle ∧ exec (.setter g code) s = .next (reject s)) ∨
        (s.busy = .idle ∧ ∃ f : Flight, exec (.setter g code) s = .next (transact f s) ∧
          ∀ r new, f = .setf r new → ∃ g' : BitField, ∃ code', r = g'.reg ∧
            Instr.setter g code = .setter g' code' ∧
            updateField s.ncodes g'.id code' (s.img.get g'.reg) = some new))) := by
    intro g code hp he
    refine .inr ⟨hp, ?_⟩
    by_cases hb : s.busy = .idle
    case neg => exact .inl ⟨hb, by rw [he, whenIdle_busy _ _ hb]⟩
    case pos =>
      rw [whenIdle_idle _ _ hb] at he
      obtain ⟨-, h⟩ | ⟨new, hu, h⟩ := setField_cases g code s
      · exact .inr (.inl ⟨hb, by rw [he, h]⟩)
      · refine .inr (.inr ⟨hb, .setf g.reg new, by rw [he, h], ?_⟩)
        intro r new' hf
        cases hf
        exact ⟨g, code, rfl, rfl, hu⟩
  have plain : ∀ (j : Instr) (f : Flight), portOfCommand j = none →
      exec j s = whenIdle (transact f) s → (∀ r new, f ≠ .setf r new) →
      (∃ c, portOfCommand j = some c ∧ exec j s = .next (usePort c s)) ∨
      (portOfCommand j = none ∧
        ((s.busy ≠ .idle ∧ exec j s = .next s) ∨
        (s.busy = .idle ∧ exec j s = .next (reject s)) ∨
        (s.busy = .idle ∧ ∃ f : Flight, exec j s = .next (transact f s) ∧
          ∀ r new, f = .setf r new → ∃ g : BitField, ∃ code, r = g.reg ∧
            j = .setter g code ∧
            updateField s.ncodes g.id code (s.img.get g.reg) = some new))) := by
    intro j f hp he hf
    refine .inr ⟨hp, ?_⟩
    by_cases hb : s.busy = .idle
    case neg => exact .inl ⟨hb, by rw [he, whenIdle_busy _ _ hb]⟩
    case pos =>
      rw [whenIdle_idle _ _ hb] at he
      exact .inr (.inr ⟨hb, f, he, fun r new h => absurd h (hf r new)⟩)
  cases i with
  | cmdReset => exact .inl ⟨_, rfl, rfl⟩
  | cmdStart => exact .inl ⟨_, rfl, rfl⟩
  | cmdPowerdown => exact .inl ⟨_, rfl, rfl⟩
  | cmdRdata => exact .inl ⟨_, rfl, rfl⟩
  | cmdRreg addr count => exact .inl ⟨_, rfl, rfl⟩
  | cmdWreg addr count => exact .inl ⟨_, rfl, rfl⟩
  | reset => exact plain _ .reset rfl rfl (by simp)
  | start => exact plain _ .start rfl rfl (by simp)
  | powerdown => exact plain _ .powerdown rfl rfl (by simp)
  | rdata => exact plain _ .rdata rfl rfl (by simp)
  | rreg r => exact plain _ (.rreg r) rfl rfl (by simp)
  | setfMux code => exact setter .mux code rfl rfl
  | setfPgaGain code => exact setter .pgaGain code rfl rfl
  | setfPgaBypass code => exact setter .pgaBypass code rfl rfl
  | setfDr code => exact setter .dr code rfl rfl
  | setfMode code => exact setter .mode code rfl rfl
  | setfCm code => exact setter .cm code rfl rfl
  | setfTs code => exact setter .ts code rfl rfl
  | setfBcs code => exact setter .bcs code rfl rfl
  | setfVref code => exact setter .vref code rfl rfl
  | setfFilter code => exact setter .filter code rfl rfl
  | setfPsw code => exact setter .psw code rfl rfl
  | setfIdac code => exact setter .idac code rfl rfl
  | setfI1mux code => exact setter .i1mux code rfl rfl
  | setfI2mux code => exact setter .i2mux code rfl rfl
  | setfDrdym code => exact setter .drdym code rfl rfl

end Sys2Proof.Machine
end

