-- ==== Sys2Proof/Laws/PerInstr.lean ====
section
/-! SUPPORT. Statements for every operation, one lemma for each constructor of `Instr`. The family
`MatchesRow` says that the word of a well-formed operation selects its row of the opcode table
(30_encoding.md R76), which ties the encoder to the table's masks and matches. -/

namespace Sys2Proof.Laws.MatchesRow

open Sys2Proof.Machine

/-- The word of a well-formed operation selects its row of spec/opcode_table.json. -/
def Statement (i : Instr) : Prop :=
  ∀ nc : Config.NCodes, i.wf nc = true → i.row.selects (encode i) = true

theorem commandByte_row (op : BitVec 4) (addr count : Byte) :
    commandByte op addr count &&& 0xF0#8 = op.setWidth 8 <<< 4 := by
  have parts : ∀ (o : BitVec 4) (a n : BitVec 2),
      ((o ++ a ++ n : BitVec 8) &&& 0xF0#8) = o.setWidth 8 <<< 4 := by decide
  exact parts op _ _

/-- It is enough to look at the default setting, in which the most codes are legal. -/
theorem under_default {i : Instr}
    (more : ∀ nc : Config.NCodes, i.wf nc = true → i.wf Config.ncodesDefault = true)
    (h : i.wf Config.ncodesDefault = true → i.row.selects (encode i) = true) : Statement i :=
  fun nc hw => h (more nc hw)

theorem cmdReset : Statement .cmdReset := fun _ _ => rfl
theorem cmdStart : Statement .cmdStart := fun _ _ => rfl
theorem cmdPowerdown : Statement .cmdPowerdown := fun _ _ => rfl
theorem cmdRdata : Statement .cmdRdata := fun _ _ => rfl
theorem cmdRreg (addr count : Byte) : Statement (.cmdRreg addr count) := fun _ _ => by
  simp [Instr.row, encode, OpRow.selects, commandByte_row]
theorem cmdWreg (addr count : Byte) : Statement (.cmdWreg addr count) := fun _ _ => by
  simp [Instr.row, encode, OpRow.selects, commandByte_row]
theorem reset : Statement .reset := fun _ _ => rfl
theorem start : Statement .start := fun _ _ => rfl
theorem powerdown : Statement .powerdown := fun _ _ => rfl
theorem rdata : Statement .rdata := fun _ _ => rfl
theorem rreg (r : Reg) : Statement (.rreg r) := fun _ _ => by cases r <;> rfl
theorem setfMux (code : Byte) : Statement (.setfMux code) := by
  refine under_default (fun nc => legalCode_default nc _ code) ?_
  revert code
  decide
theorem setfPgaGain (code : Byte) : Statement (.setfPgaGain code) := by
  refine under_default (fun nc => legalCode_default nc _ code) ?_
  revert code
  decide
theorem setfPgaBypass (code : Byte) : Statement (.setfPgaBypass code) := by
  refine under_default (fun nc => legalCode_default nc _ code) ?_
  revert code
  decide
theorem setfDr (code : Byte) : Statement (.setfDr code) := by
  refine under_default (fun nc => legalCode_default nc _ code) ?_
  revert code
  decide
theorem setfMode (code : Byte) : Statement (.setfMode code) := by
  refine under_default (fun nc => legalCode_default nc _ code) ?_
  revert code
  decide
theorem setfCm (code : Byte) : Statement (.setfCm code) := by
  refine under_default (fun nc => legalCode_default nc _ code) ?_
  revert code
  decide
theorem setfTs (code : Byte) : Statement (.setfTs code) := by
  refine under_default (fun nc => legalCode_default nc _ code) ?_
  revert code
  decide
theorem setfBcs (code : Byte) : Statement (.setfBcs code) := by
  refine under_default (fun nc => legalCode_default nc _ code) ?_
  revert code
  decide
theorem setfVref (code : Byte) : Statement (.setfVref code) := by
  refine under_default (fun nc => legalCode_default nc _ code) ?_
  revert code
  decide
theorem setfFilter (code : Byte) : Statement (.setfFilter code) := by
  refine under_default (fun nc => legalCode_default nc _ code) ?_
  revert code
  decide
theorem setfPsw (code : Byte) : Statement (.setfPsw code) := by
  refine under_default (fun nc => legalCode_default nc _ code) ?_
  revert code
  decide
theorem setfIdac (code : Byte) : Statement (.setfIdac code) := by
  refine under_default (fun nc => legalCode_default nc _ code) ?_
  revert code
  decide
theorem setfI1mux (code : Byte) : Statement (.setfI1mux code) := by
  refine under_default (fun nc => legalCode_default nc _ code) ?_
  revert code
  decide
theorem setfI2mux (code : Byte) : Statement (.setfI2mux code) := by
  refine under_default (fun nc => legalCode_default nc _ code) ?_
  revert code
  decide
theorem setfDrdym (code : Byte) : Statement (.setfDrdym code) := by
  refine under_default (fun nc => legalCode_default nc _ code) ?_
  revert code
  decide

end Sys2Proof.Laws.MatchesRow
end

