-- ==== Sys2Proof/Laws/Step.lean ====
section
/-! SUPPORT. What a step can do, said once: every invariant is proved from `step_cases`. -/

namespace Sys2Proof.Machine

/-- A request word never names a use of a CMD port (30_encoding.md R65: no input of the block is
interpreted as a command byte). -/
theorem decodeRequest_no_port (nc : Config.NCodes) (w : RequestWord) (i : Instr)
    (h : decodeRequest nc w = .ok i) :
    portOfCommand i = none := by
  have fixed : ∀ (j : Instr) (sel : BitVec 4) (arg : Byte), portOfCommand j = none →
      decodeFixed j sel arg = .ok i → portOfCommand i = none := by
    intro j sel arg hj hd
    unfold decodeFixed at hd
    split at hd
    · cases hd
      exact hj
    · cases hd
  unfold decodeRequest at h
  split at h
  · exact fixed _ _ _ rfl h
  split at h
  · exact fixed _ _ _ rfl h
  split at h
  · exact fixed _ _ _ rfl h
  split at h
  · exact fixed _ _ _ rfl h
  split at h
  · unfold decodeRreg at h
    split at h
    · cases h
    split at h
    · cases h
    · cases h
      rfl
  split at h
  · unfold decodeSetter at h
    split at h
    · cases h
    · next f hf =>
      split at h
      · cases h
        cases f <;> rfl
      · cases h
  · cases h

/-- A port event shows the port's outputs and changes nothing else. -/
theorem onPort_eq (c : PortCall) (s : State) : onPort c s = .next (usePort c s) := by
  cases c <;> rfl

/-- What an accepted request can do: be rejected, or hand one transaction over. -/
theorem runRequest_cases (w : RequestWord) (s : State) (hb : s.busy = .idle) :
    runRequest w s = .next (reject (s.record (.accepted w))) ∨
    ∃ f : Flight, runRequest w s = .next (transact f (s.record (.accepted w))) ∧
      ∀ r new, f = .setf r new → ∃ g : BitField, ∃ code, r = g.reg ∧
        updateField s.ncodes g.id code (s.img.get g.reg) = some new := by
  unfold runRequest
  split
  · next i hd =>
    have hp := decodeRequest_no_port s.ncodes w i hd
    obtain ⟨c, hc, -⟩ | ⟨-, ⟨hn, -⟩ | ⟨-, he⟩ | ⟨-, f, he, hf⟩⟩ := exec_cases i (s.record (.accepted w))
    · rw [hp] at hc
      cases hc
    · exact absurd hb hn
    · exact .inl he
    · refine .inr ⟨f, he, fun r new h => ?_⟩
      obtain ⟨g, code, hr, -, hu⟩ := hf r new h
      exact ⟨g, code, hr, hu⟩
  · exact .inl rfl

/-- What the delivery of a response can do: end a rejection, or nothing. -/
theorem onDeliver_cases (s : State) :
    (s.busy = .rejecting ∧ onDeliver s = .next (rejectInvalid s)) ∨
    (s.busy ≠ .rejecting ∧ onDeliver s = .next s) := by
  cases hb : s.busy <;> simp [onDeliver, hb]

/-- What a step can do. -/
theorem step_cases (s t : State) (h : step s = .next t) :
    (s.events = [] ∧
      ((s.busy = .rejecting ∧ t = rejectInvalid s) ∨ (s.busy ≠ .rejecting ∧ t = s))) ∨
    ∃ e rest, s.events = e :: rest ∧
      ((∃ w, e = .request w ∧
        ((s.busy ≠ .idle ∧ t = { s with events := rest }) ∨
        (s.busy = .idle ∧
          (t = reject (State.record (.accepted w) { s with events := rest }) ∨
          ∃ f : Flight, t = transact f (State.record (.accepted w) { s with events := rest }) ∧
            ∀ r new, f = .setf r new → ∃ g : BitField, ∃ code, r = g.reg ∧
              updateField s.ncodes g.id code (s.img.get g.reg) = some new)))) ∨
      (∃ a, e = .answer a ∧
        (((∀ f, s.busy ≠ .inFlight f) ∧ t = { s with events := rest }) ∨
        ∃ f, s.busy = .inFlight f ∧ t = complete f a { s with events := rest })) ∨
      (∃ c, e = .port c ∧ t = usePort c { s with events := rest }) ∨
      (e = .deliver ∧
        ((s.busy = .rejecting ∧ t = rejectInvalid { s with events := rest }) ∨
        (s.busy ≠ .rejecting ∧ t = { s with events := rest }))) ∨
      (e = .blockReset ∧ t = blockReset { s with events := rest })) := by
  unfold step at h
  split at h
  · next he =>
    refine .inl ⟨he, ?_⟩
    obtain ⟨hb, hd⟩ | ⟨hb, hd⟩ := onDeliver_cases s
    · exact .inl ⟨hb, by simpa only [onQuiet, hd, Host.Outcome.next.injEq, eq_comm] using h⟩
    · exact .inr ⟨hb, by simpa only [onQuiet, hd, Host.Outcome.next.injEq, eq_comm] using h⟩
  · next e rest he =>
    refine .inr ⟨e, rest, he, ?_⟩
    cases e with
    | request w =>
      refine .inl ⟨w, rfl, ?_⟩
      cases hb : s.busy with
      | inFlight f =>
        simp only [onEvent, onRequest, hb] at h
        cases h
        exact .inl ⟨by simp, rfl⟩
      | rejecting =>
        simp only [onEvent, onRequest, hb] at h
        cases h
        exact .inl ⟨by simp, rfl⟩
      | idle =>
        refine .inr ⟨rfl, ?_⟩
        have h' : runRequest w { s with events := rest } = .next t := by
          simpa only [onEvent, onRequest, hb] using h
        obtain hr | ⟨f, hr, hf⟩ := runRequest_cases w { s with events := rest } hb
        · rw [hr] at h'
          cases h'
          exact .inl rfl
        · rw [hr] at h'
          cases h'
          exact .inr ⟨f, rfl, hf⟩
    | answer a =>
      refine .inr (.inl ⟨a, rfl, ?_⟩)
      cases hb : s.busy with
      | idle =>
        simp only [onEvent, onAnswer, hb] at h
        cases h
        exact .inl ⟨by simp, rfl⟩
      | rejecting =>
        simp only [onEvent, onAnswer, hb] at h
        cases h
        exact .inl ⟨by simp, rfl⟩
      | inFlight f =>
        simp only [onEvent, onAnswer, hb] at h
        cases h
        exact .inr ⟨f, rfl, rfl⟩
    | port c =>
      refine .inr (.inr (.inl ⟨c, rfl, ?_⟩))
      simp only [onEvent, onPort_eq] at h
      cases h
      rfl
    | deliver =>
      refine .inr (.inr (.inr (.inl ⟨rfl, ?_⟩)))
      simp only [onEvent] at h
      obtain ⟨hb, hd⟩ | ⟨hb, hd⟩ := onDeliver_cases { s with events := rest }
      · rw [hd] at h
        cases h
        exact .inl ⟨hb, rfl⟩
      · rw [hd] at h
        cases h
        exact .inr ⟨hb, rfl⟩
    | blockReset =>
      refine .inr (.inr (.inr (.inr ⟨rfl, ?_⟩)))
      simp only [onEvent] at h
      cases h
      rfl

/-- Handing a transaction over keeps the parameter `NCODES`. -/
theorem transact_ncodes (f : Flight) (s : State) : (transact f s).ncodes = s.ncodes := by
  obtain ⟨a, rest, -, h⟩ | ⟨-, h⟩ := transact_cases f s
  · cases a <;> rw [h] <;> simp only [complete_ok, complete_err]
  · rw [h]

end Sys2Proof.Machine
end

