-- ==== Sys2Proof/Machine/Api.lean ====
section
/-! DEFINITION. The document's API names as pseudo-operations, each expanding to exactly one
operation (30_encoding.md R74). -/

namespace Sys2Proof.Machine

/-- The calls of the document's API, a symbolic value replaced by its raw code (30_encoding.md R74).
The document names no setter for the data rate and for the burn-out current, and gives one pattern
for the three current-source setters; those five names are the model's (log entry 16). -/
inductive ApiCall where
  | reset
  | start
  | powerdown
  | readData
  | readRegister (r : Reg)
  | setChannel (code : Byte)
  | setGain (code : Byte)
  | setPgaBypass (code : Byte)
  | setMode (code : Byte)
  | setConversionMode (code : Byte)
  | setTemperatureSensor (code : Byte)
  | setReference (code : Byte)
  | setFilter (code : Byte)
  | setPowerSwitch (code : Byte)
  | setDataReadyMode (code : Byte)
  | setIdacMagnitude (code : Byte)
  | setIdacRoute1 (code : Byte)
  | setIdacRoute2 (code : Byte)
  | setDataRate (code : Byte)
  | setBurnOut (code : Byte)
deriving DecidableEq, Repr

/-- `Gain128`, the only symbolic value whose code the document gives (30_encoding.md R74). -/
def gain128 : Byte := 0b111#8

/-- The one operation a call expands to (30_encoding.md R74). -/
def ApiCall.expand : ApiCall → Instr
  | .reset => .reset
  | .start => .start
  | .powerdown => .powerdown
  | .readData => .rdata
  | .readRegister r => .rreg r
  | .setChannel code => .setfMux code
  | .setGain code => .setfPgaGain code
  | .setPgaBypass code => .setfPgaBypass code
  | .setMode code => .setfMode code
  | .setConversionMode code => .setfCm code
  | .setTemperatureSensor code => .setfTs code
  | .setReference code => .setfVref code
  | .setFilter code => .setfFilter code
  | .setPowerSwitch code => .setfPsw code
  | .setDataReadyMode code => .setfDrdym code
  | .setIdacMagnitude code => .setfIdac code
  | .setIdacRoute1 code => .setfI1mux code
  | .setIdacRoute2 code => .setfI2mux code
  | .setDataRate code => .setfDr code
  | .setBurnOut code => .setfBcs code

end Sys2Proof.Machine
end

