-- ==== Sys2Proof/Machine/Assembly.lean ====
section
/-! DEFINITION. The assembly notation of 30_encoding.md R73: one operation a line, operands decimal,
`0x` hexadecimal or `0b` binary with `_` as a separator of no value (00_scope.md section 6), `;`
starts a comment. Lines are lists of characters; the separators are
the model's choice (log entry 15). -/

namespace Sys2Proof.Machine

/-- The value of a digit, below the base. -/
def digitValue (base : Nat) (c : Char) : Option Nat :=
  let n := c.toNat
  let v := if 48 ≤ n ∧ n ≤ 57 then n - 48
    else if 97 ≤ n ∧ n ≤ 102 then n - 87
    else if 65 ≤ n ∧ n ≤ 70 then n - 55
    else base
  if v < base then some v else none

/-- The value of a run of digits and separators, `seen` telling whether a digit has stood. -/
def digitsValue (base : Nat) : List Char → Nat → Bool → Option Nat
  | [], acc, seen => if seen then some acc else none
  | c :: rest, acc, seen =>
    if c = '_' then digitsValue base rest acc seen
    else
      match digitValue base c with
      | some v => digitsValue base rest (acc * base + v) true
      | none => none

/-- A number as an operand writes it (30_encoding.md R73). -/
def numberValue : List Char → Option Nat
  | '0' :: 'x' :: rest => digitsValue 16 rest 0 false
  | '0' :: 'b' :: rest => digitsValue 2 rest 0 false
  | cs => digitsValue 10 cs 0 false

/-- The words of a line: blanks and commas separate them, `;` ends the line. `word` holds the
characters of the word being read, last one first. -/
def lineWords : List Char → List Char → List (List Char)
  | [], word => if word = [] then [] else [word.reverse]
  | c :: rest, word =>
    if c = ';' then if word = [] then [] else [word.reverse]
    else if c = ' ' ∨ c = '\t' ∨ c = ',' then
      if word = [] then lineWords rest [] else word.reverse :: lineWords rest []
    else lineWords rest (c :: word)

/-- A number as an 8-bit operand. -/
def byteOperand (n : Nat) : Option Byte := if n < 256 then some (BitVec.ofNat 8 n) else none

/-- The field of a setter's mnemonic (10_state.md R22). -/
def fieldNamed (name : String) : Option BitField :=
  if name = "MUX" then some .mux
  else if name = "PGA_GAIN" then some .pgaGain
  else if name = "PGA_BYPASS" then some .pgaBypass
  else if name = "DR" then some .dr
  else if name = "MODE" then some .mode
  else if name = "CM" then some .cm
  else if name = "TS" then some .ts
  else if name = "BCS" then some .bcs
  else if name = "VREF" then some .vref
  else if name = "FILTER" then some .filter
  else if name = "PSW" then some .psw
  else if name = "IDAC" then some .idac
  else if name = "I1MUX" then some .i1mux
  else if name = "I2MUX" then some .i2mux
  else if name = "DRDYM" then some .drdym
  else none

/-- An operation from its mnemonic and its operands, before the check of its operands' ranges
(30_encoding.md R73). -/
def operationOf (name : String) (operands : List Nat) : Option Instr :=
  match operands with
  | [] =>
    if name = "RESET" then some .reset
    else if name = "START" then some .start
    else if name = "POWERDOWN" then some .powerdown
    else if name = "RDATA" then some .rdata
    else if name = "CMD.RESET" then some .cmdReset
    else if name = "CMD.START" then some .cmdStart
    else if name = "CMD.POWERDOWN" then some .cmdPowerdown
    else if name = "CMD.RDATA" then some .cmdRdata
    else none
  | [n] =>
    if name = "RREG" then
      if n < Config.nreg then some (.rreg (Reg.ofAddr (BitVec.ofNat 2 n))) else none
    else
      match name.toList with
      | 'S' :: 'E' :: 'T' :: 'F' :: '.' :: rest =>
        match fieldNamed (String.ofList rest), byteOperand n with
        | some f, some code => some (.setter f code)
        | _, _ => none
      | _ => none
  | [addr, count] =>
    match byteOperand addr, byteOperand count with
    | some a, some c =>
      if name = "CMD.RREG" then some (.cmdRreg a c)
      else if name = "CMD.WREG" then some (.cmdWreg a c)
      else none
    | _, _ => none
  | _ => none

/-- What a line of assembly is. -/
inductive AsmLine where
  | blank
  | operation (i : Instr)
  | malformed
deriving DecidableEq, Repr

/-- One line of assembly, under a setting of `NCODES` (30_encoding.md R73). An operation out of its domain has no word and is no
line of the notation. -/
def assembleLine (nc : Config.NCodes) (line : List Char) : AsmLine :=
  match lineWords line [] with
  | [] => .blank
  | name :: operands =>
    match operands.mapM numberValue with
    | none => .malformed
    | some ns =>
      match operationOf (String.ofList name) ns with
      | some i => if i.wf nc then .operation i else .malformed
      | none => .malformed

end Sys2Proof.Machine
end

