-- ==== Sys2Proof/Tests/Slice0.lean ====
section
/-! SUPPORT. Tests of one step or one function each, by evaluation, and a witness for every statement
that has hypotheses. Expected values are those of spec/95_test_vectors.md (the vector is named), of a
rule's own example, or worked by hand from the encoding table of spec/30_encoding.md. -/

namespace Sys2Proof.Tests

open Sys2Proof.Machine
open Sys2Proof.Config (ncodesDefault ncodesDatasheet)

/-! ### Well-formedness: a term that each check refuses -/

theorem test_wf_refuses_address :
    (Instr.cmdRreg 4 1).wf ncodesDefault = false ∧
      (Instr.cmdWreg 4 1).wf ncodesDefault = false := by decide

theorem test_wf_refuses_count_zero :
    (Instr.cmdRreg 0 0).wf ncodesDefault = false ∧
      (Instr.cmdWreg 0 0).wf ncodesDefault = false := by decide

theorem test_wf_refuses_count_five :
    (Instr.cmdRreg 0 5).wf ncodesDefault = false ∧
      (Instr.cmdWreg 0 5).wf ncodesDefault = false := by decide

/-- The first illegal code of every field (95_test_vectors.md 2.1.2). -/
theorem test_wf_refuses_codes :
    ([.setfMux 16, .setfPgaGain 8, .setfPgaBypass 2, .setfDr 8, .setfMode 4,
      .setfCm 2, .setfTs 2, .setfBcs 2, .setfVref 4, .setfFilter 4,
      .setfPsw 2, .setfIdac 8, .setfI1mux 8, .setfI2mux 8, .setfDrdym 2] :
      List Instr).map (Instr.wf ncodesDefault) =
    List.replicate 15 false := by decide

theorem test_wf_admits_the_largest_operands :
    ([.cmdRreg 3 4, .cmdWreg 3 4, .setfMux 15, .setfPgaGain 7, .setfPgaBypass 1, .setfDrdym 1] :
      List Instr).map (Instr.wf ncodesDefault) = List.replicate 6 true := by decide

/-! ### Decoding: every row, its word written out from the encoding table (30_encoding.md R69) -/

theorem test_decode_cmdReset : decodeTableWord 8 0b00000110 = some .cmdReset := by decide
theorem test_decode_cmdStart : decodeTableWord 8 0b00001000 = some .cmdStart := by decide
theorem test_decode_cmdPowerdown : decodeTableWord 8 0b00000010 = some .cmdPowerdown := by decide
theorem test_decode_cmdRdata : decodeTableWord 8 0b00010000 = some .cmdRdata := by decide
theorem test_decode_cmdRreg : decodeTableWord 8 0b00101110 = some (.cmdRreg 3 3) := by decide
theorem test_decode_cmdWreg : decodeTableWord 8 0b01000111 = some (.cmdWreg 1 4) := by decide
theorem test_decode_reset : decodeTableWord 16 0b0001000000000000 = some .reset := by decide
theorem test_decode_start : decodeTableWord 16 0b0010000000000000 = some .start := by decide
theorem test_decode_powerdown : decodeTableWord 16 0b0011000000000000 = some .powerdown := by decide
theorem test_decode_rdata : decodeTableWord 16 0b0100000000000000 = some .rdata := by decide
theorem test_decode_rreg : decodeTableWord 16 0b0101001000000000 = some (.rreg .config2) := by decide
theorem test_decode_setfMux : decodeTableWord 16 0b0110000000001001 = some (.setfMux 9) := by decide
theorem test_decode_setfPgaGain :
    decodeTableWord 16 0b0110000100000110 = some (.setfPgaGain 6) := by decide
theorem test_decode_setfPgaBypass :
    decodeTableWord 16 0b0110001000000001 = some (.setfPgaBypass 1) := by decide
theorem test_decode_setfDr : decodeTableWord 16 0b0110001100000011 = some (.setfDr 3) := by decide
theorem test_decode_setfMode : decodeTableWord 16 0b0110010000000010 = some (.setfMode 2) := by decide
theorem test_decode_setfCm : decodeTableWord 16 0b0110010100000001 = some (.setfCm 1) := by decide
theorem test_decode_setfTs : decodeTableWord 16 0b0110011000000001 = some (.setfTs 1) := by decide
theorem test_decode_setfBcs : decodeTableWord 16 0b0110011100000001 = some (.setfBcs 1) := by decide
theorem test_decode_setfVref : decodeTableWord 16 0b0110100000000010 = some (.setfVref 2) := by decide
theorem test_decode_setfFilter : decodeTableWord 16 0b0110100100000001 = some (.setfFilter 1) := by decide
theorem test_decode_setfPsw : decodeTableWord 16 0b0110101000000001 = some (.setfPsw 1) := by decide
theorem test_decode_setfIdac : decodeTableWord 16 0b0110101100000110 = some (.setfIdac 6) := by decide
theorem test_decode_setfI1mux : decodeTableWord 16 0b0110110000000100 = some (.setfI1mux 4) := by decide
theorem test_decode_setfI2mux : decodeTableWord 16 0b0110110100000011 = some (.setfI2mux 3) := by decide
theorem test_decode_setfDrdym : decodeTableWord 16 0b0110111000000001 = some (.setfDrdym 1) := by decide

/-- The invalid words of 95_test_vectors.md 2.4.4. -/
theorem test_decode_refuses :
    ([0x0000, 0x0006, 0x1001, 0x1100, 0x2001, 0x3F00, 0x40FF, 0x5400, 0x5F00, 0x5001, 0x6010, 0x6108,
      0x6202, 0x6404, 0x6804, 0x6E02, 0x6EFF, 0x6F00, 0x7000, 0x8000, 0xE000, 0xFFFF] : List Nat).map
      (decodeTableWord 16) = List.replicate 22 none := by decide

/-- The reason each kind of invalid word is refused for (30_encoding.md R71). -/
theorem test_decode_reasons :
    decodeRequest ncodesDefault 0x7000 = .error .badOperation ∧
      decodeRequest ncodesDefault 0x2001 = .error .unusedBits ∧
      decodeRequest ncodesDefault 0x5400 = .error .badAddress ∧
      decodeRequest ncodesDefault 0x6F00 = .error .noSuchField ∧
      decodeRequest ncodesDefault 0x6804 = .error .codeOutOfRange ∧
      decodeCommand 0x30 = .error .notACommand := by
  decide

/-- The five words flagged (GK3) are requests under the default setting and none under the other. -/
theorem test_decode_other_setting :
    [(0x0, 15), (0x3, 7), (0x4, 3), (0xC, 7), (0xD, 7)].map (fun p =>
      ((decodeSetter ncodesDefault p.1 p.2).isOk,
        (decodeSetter ncodesDatasheet p.1 p.2).isOk)) =
    List.replicate 5 (true, false) := by decide

/-! ### The pure functions -/

/-- Table C of 95_test_vectors.md 2.1.5, the row that tells the masked form from the unmasked one. -/
theorem test_applyField_masked : applyField 0x89 0x9D 0x35 = 0x15 := by decide

/-- The examples of 40_bitfield.md R83 and R84. -/
theorem test_setHigh_setLow : setHigh 0x21 0x0E = 0x2F ∧ setLow 0x2F 0x0E = 0x21 := by decide

/-- Column 0x5A of table A (95_test_vectors.md 2.1.3), each field at its highest code. -/
theorem test_updateField_column :
    (BitField.all.map fun f =>
      updateField ncodesDefault f.id (BitVec.ofNat 8 (2 ^ f.width - 1)) 0x5A) =
    [some 0xFA, some 0x5E, some 0x5B, some 0xFA, some 0x5A, some 0x5E, some 0x5A, some 0x5B, some 0xDA,
      some 0x7A, some 0x5A, some 0x5F, some 0xFA, some 0x5E, some 0x5A] := by decide

/-- Column 0xA5 of table B (95_test_vectors.md 2.1.4). -/
theorem test_decodeField_column :
    (BitField.all.map fun f => decodeField f.id 0xA5) =
    [some 10, some 2, some 1, some 5, some 0, some 1, some 0, some 1, some 2, some 2, some 0, some 5,
      some 5, some 1, some 0] := by decide

theorem test_field_15_is_invalid :
    fieldMask 15 = none ∧ encodeBits ncodesDefault 15 0 = none ∧ decodeField 15 0xFF = none ∧
      updateField ncodesDefault 15 0 0xFF = none := by decide

/-- 95_test_vectors.md S4 and 2.2.3. -/
theorem test_encRreg_encWreg :
    encRreg 2 1 = some 0x28 ∧ encWreg 0 1 = some 0x40 ∧ encRreg 3 4 = some 0x2F ∧
      encWreg 3 4 = some 0x4F ∧ encRreg 0 0 = none ∧ encWreg 0 5 = none ∧ encRreg 4 1 = none ∧
      encWreg 4 1 = none ∧ encWreg 2 255 = none := by decide

/-- 30_encoding.md R64 on one byte of each command. -/
theorem test_dataPhase :
    dataPhase 0x10 = some (.fromDevice 3) ∧ dataPhase 0x2F = some (.fromDevice 4) ∧
      dataPhase 0x44 = some (.toDevice 1) ∧ dataPhase 0x06 = some .nothing ∧ dataPhase 0x50 = none := by
  decide

/-- 95_test_vectors.md 2.3. -/
theorem test_decodeSample :
    (decodeSample 0x7F 0xFF 0xFF).toInt = 8388607 ∧ (decodeSample 0x80 0x00 0x00).toInt = -8388608 ∧
      (decodeSample 0x00 0x00 0x01).toInt = 1 ∧ (decodeSample 0xFF 0xFF 0xFF).toInt = -1 ∧
      (decodeSample 0x12 0x34 0x56).toInt = 1193046 ∧ (decodeSample 0xAB 0xCD 0xEF).toInt = -5517841 ∧
      (decodeSample 0x00 0xFF 0xFF).toInt = 65535 := by decide

/-! ### One step of each operation -/

/-- The start state `S0` of 95_test_vectors.md 2.4: every field non-trivial. -/
def imageS0 : Image := ⟨0xA5, 0x5A, 0xC3, 0x3C⟩

/-- An idle block with this image and these flags, and these inputs to come. -/
def idleAt (img : Image) (stale : BitVec 4) (events : List EnvEvent) : State :=
  { State.reset with img := img, stale := stale, events := events }

/-- A block waiting for the answer to this operation. -/
def busyAt (f : Flight) (events : List EnvEvent) : State :=
  { State.reset with img := imageS0, busy := .inFlight f, events := events }

/-- A block that owes the response to a rejected request. -/
def rejectingAt (events : List EnvEvent) : State :=
  { State.reset with img := imageS0, busy := .rejecting, events := events }

/-- A request and the answer its transaction gets. -/
def asks (img : Image) (stale : BitVec 4) (w : RequestWord) (a : Answer) : State :=
  idleAt img stale [.request w, .answer a]

/-- Image, flags, `BUSY` bit and the newest two entries of the record after a step. -/
def seen : StepOutcome → Option (Image × BitVec 4 × BitVec 1 × List PortEvent)
  | .next t => some (t.img, t.stale, t.busy.bit, t.trace.take 2)
  | _ => none

/-- What a success leaves in the record. -/
def okRecord (v : Payload) (steps : List XStep) (received : List (List Byte)) : List PortEvent :=
  [.responded (.ok v), .answered steps (.ok received)]

/-- What a failure leaves in the record. -/
def errRecord (e : Config.E) (steps : List XStep) : List PortEvent :=
  [.responded (.err (.transportError e)), .answered steps (.err e)]

/-- Vector O2. -/
theorem test_reset_ok :
    seen (step (asks imageS0 0b0101 0x1000 (.ok 1 2 3))) =
      some (⟨0, 0, 0, 0⟩, 0b0000, 0,
        okRecord .nothing [.write [0x06]] []) := by decide

/-- Vector O3. -/
theorem test_reset_err :
    seen (step (asks imageS0 0b0000 0x1000 (.err 1))) =
      some (imageS0, 0b1111, 0,
        errRecord 1 [.write [0x06]]) := by decide

/-- Vector O5. -/
theorem test_start_ok :
    seen (step (asks imageS0 0b0000 0x2000 (.ok 0 0 0))) =
      some (imageS0, 0b0000, 0,
        okRecord .nothing [.write [0x08]] []) := by decide

/-- Vector O6. -/
theorem test_start_err :
    seen (step (asks imageS0 0b0010 0x2000 (.err 2))) =
      some (imageS0, 0b0010, 0,
        errRecord 2 [.write [0x08]]) := by decide

/-- Vector O7. -/
theorem test_powerdown_ok :
    seen (step (asks imageS0 0b0000 0x3000 (.ok 0 0 0))) =
      some (imageS0, 0b0000, 0,
        okRecord .nothing [.write [0x02]] []) := by decide

/-- Vector O8. -/
theorem test_powerdown_err :
    seen (step (asks imageS0 0b0000 0x3000 (.err 3))) =
      some (imageS0, 0b0000, 0,
        errRecord 3 [.write [0x02]]) := by decide

/-- Vector O10. -/
theorem test_rdata_ok :
    seen (step (asks imageS0 0b0000 0x4000 (.ok 0x80 0x00 0x00))) =
      some (imageS0, 0b0000, 0,
        okRecord (.sample 0xFF800000) [.write [0x10], .read 3] [[0x80, 0x00, 0x00]]) := by decide

/-- Vector O12. -/
theorem test_rdata_err :
    seen (step (asks imageS0 0b1000 0x4000 (.err 4))) =
      some (imageS0, 0b1000, 0,
        errRecord 4 [.write [0x10], .read 3]) := by decide

/-- Vector O15. -/
theorem test_rreg_keeps_stale :
    seen (step (asks imageS0 0b0100 0x5200 (.ok 0xC3 0 0))) =
      some (imageS0, 0b0100, 0,
        okRecord (.byte 0xC3) [.write [0x28], .read 1] [[0xC3]]) := by decide

/-- Vector O16: the reserved bit is passed through. -/
theorem test_rreg_raw :
    seen (step (asks imageS0 0b0000 0x5300 (.ok 0x3D 0 0))) =
      some (imageS0, 0b0000, 0,
        okRecord (.byte 0x3D) [.write [0x2C], .read 1] [[0x3D]]) := by decide

/-- Vector F1. -/
theorem test_setfPgaGain_ok :
    seen (step (asks imageS0 0b0000 0x6107 (.ok 0 0 0))) =
      some (⟨0xAF, 0x5A, 0xC3, 0x3C⟩, 0b0000, 0,
        okRecord .nothing [.write [0x40], .write [0xAF]] []) := by decide

/-- Vector F2. -/
theorem test_setfPgaBypass_ok :
    seen (step (asks imageS0 0b0000 0x6200 (.ok 0 0 0))) =
      some (⟨0xA4, 0x5A, 0xC3, 0x3C⟩, 0b0000, 0,
        okRecord .nothing [.write [0x40], .write [0xA4]] []) := by decide

/-- Vector F3. -/
theorem test_setfDr_ok :
    seen (step (asks imageS0 0b0000 0x6306 (.ok 0 0 0))) =
      some (⟨0xA5, 0xDA, 0xC3, 0x3C⟩, 0b0000, 0,
        okRecord .nothing [.write [0x44], .write [0xDA]] []) := by decide

/-- Vector F4. -/
theorem test_setfMode_ok :
    seen (step (asks imageS0 0b0000 0x6401 (.ok 0 0 0))) =
      some (⟨0xA5, 0x4A, 0xC3, 0x3C⟩, 0b0000, 0,
        okRecord .nothing [.write [0x44], .write [0x4A]] []) := by decide

/-- Vector F5. -/
theorem test_setfCm_ok :
    seen (step (asks imageS0 0b0000 0x6501 (.ok 0 0 0))) =
      some (⟨0xA5, 0x5E, 0xC3, 0x3C⟩, 0b0000, 0,
        okRecord .nothing [.write [0x44], .write [0x5E]] []) := by decide

/-- Vector F6. -/
theorem test_setfTs_ok :
    seen (step (asks imageS0 0b0000 0x6600 (.ok 0 0 0))) =
      some (⟨0xA5, 0x58, 0xC3, 0x3C⟩, 0b0000, 0,
        okRecord .nothing [.write [0x44], .write [0x58]] []) := by decide

/-- Vector F7. -/
theorem test_setfBcs_ok :
    seen (step (asks imageS0 0b0000 0x6701 (.ok 0 0 0))) =
      some (⟨0xA5, 0x5B, 0xC3, 0x3C⟩, 0b0000, 0,
        okRecord .nothing [.write [0x44], .write [0x5B]] []) := by decide

/-- Vector F8. -/
theorem test_setfVref_ok :
    seen (step (asks imageS0 0b0000 0x6800 (.ok 0 0 0))) =
      some (⟨0xA5, 0x5A, 0x03, 0x3C⟩, 0b0000, 0,
        okRecord .nothing [.write [0x48], .write [0x03]] []) := by decide

/-- Vector F9. -/
theorem test_setfFilter_ok :
    seen (step (asks imageS0 0b0000 0x6902 (.ok 0 0 0))) =
      some (⟨0xA5, 0x5A, 0xE3, 0x3C⟩, 0b0000, 0,
        okRecord .nothing [.write [0x48], .write [0xE3]] []) := by decide

/-- Vector F10. -/
theorem test_setfPsw_ok :
    seen (step (asks imageS0 0b0000 0x6A01 (.ok 0 0 0))) =
      some (⟨0xA5, 0x5A, 0xCB, 0x3C⟩, 0b0000, 0,
        okRecord .nothing [.write [0x48], .write [0xCB]] []) := by decide

/-- Vector F11. -/
theorem test_setfIdac_ok :
    seen (step (asks imageS0 0b0000 0x6B04 (.ok 0 0 0))) =
      some (⟨0xA5, 0x5A, 0xC4, 0x3C⟩, 0b0000, 0,
        okRecord .nothing [.write [0x48], .write [0xC4]] []) := by decide

/-- Vector F12. -/
theorem test_setfI1mux_ok :
    seen (step (asks imageS0 0b0000 0x6C05 (.ok 0 0 0))) =
      some (⟨0xA5, 0x5A, 0xC3, 0xBC⟩, 0b0000, 0,
        okRecord .nothing [.write [0x4C], .write [0xBC]] []) := by decide

/-- Vector F13. -/
theorem test_setfI2mux_ok :
    seen (step (asks imageS0 0b0000 0x6D02 (.ok 0 0 0))) =
      some (⟨0xA5, 0x5A, 0xC3, 0x28⟩, 0b0000, 0,
        okRecord .nothing [.write [0x4C], .write [0x28]] []) := by decide

/-- Vector F14. -/
theorem test_setfDrdym_ok :
    seen (step (asks imageS0 0b0000 0x6E01 (.ok 0 0 0))) =
      some (⟨0xA5, 0x5A, 0xC3, 0x3E⟩, 0b0000, 0,
        okRecord .nothing [.write [0x4C], .write [0x3E]] []) := by decide

/-- Vector G1. -/
theorem test_setfMux_err :
    seen (step (asks imageS0 0b0000 0x6003 (.err 6))) =
      some (imageS0, 0b0001, 0,
        errRecord 6 [.write [0x40], .write [0x35]]) := by decide

/-- Vector G2. -/
theorem test_setfPgaBypass_clears_stale :
    seen (step (asks imageS0 0b0001 0x6200 (.ok 0 0 0))) =
      some (⟨0xA4, 0x5A, 0xC3, 0x3C⟩, 0b0000, 0,
        okRecord .nothing [.write [0x40], .write [0xA4]] []) := by decide

/-- Vector G3. -/
theorem test_setfDr_keeps_other_stale :
    seen (step (asks imageS0 0b0001 0x6301 (.ok 0 0 0))) =
      some (⟨0xA5, 0x3A, 0xC3, 0x3C⟩, 0b0001, 0,
        okRecord .nothing [.write [0x44], .write [0x3A]] []) := by decide

/-- Vector G4. -/
theorem test_setfIdac_err :
    seen (step (asks imageS0 0b1111 0x6B00 (.err 7))) =
      some (imageS0, 0b1111, 0,
        errRecord 7 [.write [0x48], .write [0xC0]]) := by decide

/-- Vector G6: the same byte is sent and clears the flag. -/
theorem test_setfMux_same_byte :
    seen (step (asks imageS0 0b0001 0x600A (.ok 0 0 0))) =
      some (imageS0, 0b0000, 0,
        okRecord .nothing [.write [0x40], .write [0xA5]] []) := by decide

/-- Vector G9. -/
theorem test_setfPgaGain_zero :
    seen (step (asks ⟨0xFF, 0xFF, 0xFF, 0xFE⟩ 0b0000 0x6100 (.ok 0 0 0))) =
      some (⟨0xF1, 0xFF, 0xFF, 0xFE⟩, 0b0000, 0,
        okRecord .nothing [.write [0x40], .write [0xF1]] []) := by decide

/-- Scenario S6: `set_gain(Gain128)` from the defaults is one request word. -/
theorem test_gain128_word : encode (ApiCall.expand (.setGain gain128)) = .request 0x6107 := by decide

/-- An invalid word: one response, no transaction, nothing changed (vector row 0x6804; 43_operations.md
R154). -/
theorem test_invalid_request :
    seen (step (idleAt imageS0 0b0101 [.request 0x6804, .deliver])) =
      some (imageS0, 0b0101, 0, [.responded (.err .invalidArgument), .accepted 0x6804]) := by decide

/-- `BUSY` is 1 for it until the response is delivered (10_state.md R15). -/
theorem test_invalid_request_busy :
    seen (step (asks imageS0 0 0x6804 (.ok 0 0 0))) = some (imageS0, 0, 1, [.accepted 0x6804]) := by
  decide

/-- A second request meets it busy, and without an event its response is delivered. -/
theorem test_rejecting :
    seen (step (rejectingAt [.request 0x1000])) = some (imageS0, 0, 1, []) ∧
      seen (step (rejectingAt [])) = some (imageS0, 0, 0, [.responded (.err .invalidArgument)]) := by
  decide

/-- The word 0x600F, flagged (GK3) in 95_test_vectors.md 2.4.4, under the two settings. -/
theorem test_setting_of_ncodes :
    seen (step (asks imageS0 0 0x600F (.ok 0 0 0))) =
        some (⟨0xF5, 0x5A, 0xC3, 0x3C⟩, 0, 0, okRecord .nothing [.write [0x40], .write [0xF5]] []) ∧
      seen (step { asks imageS0 0 0x600F (.ok 0 0 0) with ncodes := ncodesDatasheet }) =
        some (imageS0, 0, 1, [.accepted 0x600F]) := by decide

/-- A wire row: the port shows its byte, or no byte (41_command_encoder.md R114, R116). -/
theorem test_cmdRreg :
    seen (exec (.cmdRreg 2 1) State.reset) =
        some (⟨0, 0, 0, 0⟩, 0, 0, [.portShown (.encRreg 2 1) (.byte (some 0x28))]) ∧
      seen (exec (.cmdRreg 4 1) State.reset) =
        some (⟨0, 0, 0, 0⟩, 0, 0, [.portShown (.encRreg 4 1) (.byte none)]) := by decide

theorem test_cmdWreg :
    seen (exec (.cmdWreg 0 4) State.reset) =
        some (⟨0, 0, 0, 0⟩, 0, 0, [.portShown (.encWreg 0 4) (.byte (some 0x43))]) ∧
      seen (exec (.cmdWreg 0 5) State.reset) =
        some (⟨0, 0, 0, 0⟩, 0, 0, [.portShown (.encWreg 0 5) (.byte none)]) := by decide

theorem test_fixed_wire_rows :
    [Instr.cmdReset, .cmdStart, .cmdPowerdown, .cmdRdata].map
      (fun i => (seen (exec i State.reset)).map fun o => o.2.2.2) =
    [some [.portShown .encReset (.byte (some 0x06))], some [.portShown .encStart (.byte (some 0x08))],
      some [.portShown .encPowerdown (.byte (some 0x02))],
      some [.portShown .encRdata (.byte (some 0x10))]] := by decide

/-- With no answer at hand the block waits with `BUSY = 1` and the image as it was (10_state.md R15,
R29). -/
theorem test_setter_waits :
    seen (step (idleAt imageS0 0 [.request 0x6003])) =
      some (imageS0, 0, 1, [.handedOver [.write [0x40], .write [0x35]], .accepted 0x6003]) := by decide

/-- The late answer commits (43_operations.md R130). -/
theorem test_late_answer :
    seen (step (busyAt (.setf .config0 0x35) [.answer (.ok 0 0 0)])) =
      some (⟨0x35, 0x5A, 0xC3, 0x3C⟩, 0, 0, okRecord .nothing [.write [0x40], .write [0x35]] []) := by
  decide

/-- Block reset drops the operation in flight (70_reset_and_hazards.md R181). -/
theorem test_block_reset :
    seen (step (busyAt (.setf .config0 0x35) [.blockReset])) =
      some (⟨0, 0, 0, 0⟩, 0, 0, [.blockReset (.inFlight (.setf .config0 0x35))]) := by decide

/-- A request presented while `BUSY = 1` is not remembered (70_reset_and_hazards.md R192). -/
theorem test_busy_turns_away :
    seen (step (busyAt .rdata [.request 0x1000])) = some (imageS0, 0, 1, []) := by decide

/-- Placed words run: the request row of RREG 1 waits for its answer, the wire row is a port use. -/
theorem test_withFetchWord :
    seen (step (State.reset.withFetchWord 16 0x5100)) =
        some (⟨0, 0, 0, 0⟩, 0, 1, [.handedOver [.write [0x24], .read 1], .accepted 0x5100]) ∧
      seen (step (State.reset.withFetchWord 8 0x4F)) =
        some (⟨0, 0, 0, 0⟩, 0, 0, [.portShown (.encWreg 3 4) (.byte (some 0x4F))]) := by decide

/-! ### Notation -/

/-- The notation of 30_encoding.md R73, its operands in the three number forms. -/
theorem test_assembly :
    assembleLine ncodesDefault "SETF.PGA_GAIN 0b111 ; gain 128".toList = .operation (.setfPgaGain 7) ∧
      assembleLine ncodesDefault "RREG 2".toList = .operation (.rreg .config2) ∧
      assembleLine ncodesDefault "CMD.WREG 0x3, 4".toList = .operation (.cmdWreg 3 4) ∧
      assembleLine ncodesDefault "SETF.VREF 4".toList = .malformed ∧
      assembleLine ncodesDefault "; nothing".toList = .blank := by
  decide

/-- The API's names (30_encoding.md R74). -/
theorem test_api : encode (ApiCall.expand (.setChannel 8)) = .request 0x6008 ∧
    encode (ApiCall.expand (.readRegister .config3)) = .request 0x5300 := by decide

/-- 30_encoding.md R72 and 10_state.md R29. -/
theorem test_ports :
    Response.signals (.ok (.byte 0x40)) = ⟨0, some 0x00000040, none⟩ ∧
      (busyAt .rdata []).observe = ⟨0xA5, 0x5A, 0xC3, 0x3C, 0, 1⟩ ∧ (busyAt .rdata []).reqReady = 0 := by
  decide

/-- An acknowledged operation as a lifecycle event (60_exceptions.md R170). -/
theorem test_lifecycle :
    Lifecycle.configured.next? (.start .single) = some .singleShotPending ∧
      Lifecycle.converting.next? .registerWrite = none ∧
      Flight.lifecycleEvent .single (.setf .config0 0) = some .registerWrite := by decide
/-! ### A witness for the hypotheses of each statement

`witness_X` shows a state and operands that meet all hypotheses of `Obligations.X`, at the boundary
values of its clauses. -/

/-- The state after a step, where there is one. -/
def after (s : State) : State :=
  match step s with
  | .next t => t
  | _ => s

/-- After one acknowledged setter from reset: a record with one request in it, and inputs to come. -/
def history (rest : List EnvEvent) : State :=
  after { State.reset with events := .request 0x6E01 :: .answer (.ok 0 0 0) :: rest }

/-- After a setter that is not answered. -/
def pending (rest : List EnvEvent) : State :=
  after { State.reset with events := .request 0x6E01 :: rest }

theorem witness_DecodeEncodeRoundTrip :
    (Instr.cmdWreg 3 4).wf ncodesDefault = true ∧ (Instr.rreg .config3).wf ncodesDefault = true ∧
      (Instr.setfMux 15).wf ncodesDefault = true := by decide

theorem witness_DecodedWordsEncodeBack :
    decode ncodesDefault (.command 0x4F) = .ok (.cmdWreg 3 4) ∧
      decode ncodesDefault (.request 0x600F) = .ok (.setfMux 15) := by
  decide

/-- One word for each clause of 30_encoding.md R71, at the clause's boundaries, and the valid words
beside them. -/
theorem witness_InvalidWordsAreTheListedOnes :
    ([0x0FFF, 0x7000, 0x1001, 0x4100, 0x5400, 0x5001, 0x6F00, 0x6010, 0x6E02].map fun w =>
      (decodeRequest ncodesDefault w).isOk) = List.replicate 9 false ∧
    ([0x1000, 0x4000, 0x5300, 0x600F, 0x6E01].map fun w =>
      (decodeRequest ncodesDefault w).isOk) = List.replicate 5 true := by decide

theorem witness_FieldMasksAreDisjoint :
    BitField.mux ≠ .pgaGain ∧ BitField.mux.reg = BitField.pgaGain.reg := by decide

theorem witness_EncodeBitsLegalCodesOnly :
    BitField.ofId 15 = none ∧
      BitField.ofId 0 = some .mux ∧ ncodesDatasheet.of .mux ≤ (15 : Byte).toNat ∧
      (14 : Byte).toNat < ncodesDatasheet.of .mux := by decide

theorem witness_DecodeFieldReadsTheMask :
    BitField.ofId 15 = none ∧ BitField.ofId 14 = some .drdym := by decide

theorem witness_UpdateFieldLaws :
    ncodesDatasheet.of .dr ≤ (7 : Byte).toNat ∧
      (6 : Byte).toNat < ncodesDatasheet.of .dr ∧ (0 : Byte).toNat < ncodesDatasheet.of .dr :=
  by decide

theorem witness_SiblingFieldsAreIndependent :
    BitField.i1mux ≠ .drdym ∧
      BitField.i1mux.reg = BitField.drdym.reg ∧ BitField.i1mux.reg = .config3 ∧
      updateField ncodesDatasheet BitField.i1mux.id 6 0x01 = some 0xC1 ∧
      updateField ncodesDatasheet BitField.drdym.id 1 0x01 = some 0x03 :=
  by decide

theorem witness_RegisterByteIsTheOrOfItsFields :
    (0x62 : Byte).getLsbD 0 = false ∧ Reg.config3 ≠ .config0 := by decide

/-- Masks that cover the field, and masks that do not. -/
theorem witness_ClearThenSetIsApplyField :
    (0x08 &&& ~~~BitField.pgaGain.mask = 0 ∧ 0x06 &&& ~~~BitField.pgaGain.mask = 0 ∧
      (0x08#8) &&& 0x06#8 = 0 ∧ 0x08 ||| 0x06 = BitField.pgaGain.mask) ∧
    (0x08 &&& ~~~BitField.pgaGain.mask = 0 ∧ 0x02 &&& ~~~BitField.pgaGain.mask = 0 ∧
      (0x08#8) &&& 0x02#8 = 0 ∧ 0x08 ||| 0x02 ≠ BitField.pgaGain.mask) := by decide

theorem witness_RregCommandPort :
    3 < (4 : Byte).toNat ∧ (0 : Byte).toNat < 1 ∧ 4 < (5 : Byte).toNat ∧
      ((3 : Byte).toNat ≤ 3 ∧ 1 ≤ (4 : Byte).toNat ∧ (4 : Byte).toNat ≤ 4) ∧
      ((0 : Byte).toNat ≤ 3 ∧ 1 ≤ (1 : Byte).toNat ∧ (1 : Byte).toNat ≤ 4) := by decide

theorem witness_WregCommandPort :
    3 < (255 : Byte).toNat ∧ (0 : Byte).toNat < 1 ∧ 4 < (5 : Byte).toNat ∧
      ((3 : Byte).toNat ≤ 3 ∧ 1 ≤ (4 : Byte).toNat ∧ (4 : Byte).toNat ≤ 4) ∧
      ((0 : Byte).toNat ≤ 3 ∧ 1 ≤ (1 : Byte).toNat ∧ (1 : Byte).toNat ≤ 4) := by decide

theorem witness_CommandEncoderIsInjective :
    (Instr.cmdRreg 3 4).wf ncodesDefault = true ∧ (Instr.cmdStart).wf ncodesDefault = true ∧
      portOfCommand (.cmdRreg 3 4) = some (.encRreg 3 4) ∧
      portOfCommand .cmdStart = some .encStart := by decide

theorem witness_CommandEncoderLaws :
    (0x20 ≤ (0x2F : Byte).toNat ∧ (0x2F : Byte).toNat ≤ 0x2F) ∧
      (0x40 ≤ (0x40 : Byte).toNat ∧ (0x40 : Byte).toNat ≤ 0x4F) ∧
      (decodeCommand 0x4F).isOk = true := by decide

/-- No event that is no answer stands for an answer. -/
theorem no_answer (rest : List EnvEvent) (h : rest.head? = none ∨ rest.head? = some .blockReset) :
    ∀ a tail, rest ≠ EnvEvent.answer a :: tail := by
  intro a tail e
  subst e
  simp at h

/-- The three clauses of the statements `ResetOperation`, `StartOperation`, `PowerdownOperation`,
`RdataOperation`, `RregOperation` and `SettersOfConfig0` to `SettersOfConfig3`: an idle block whose
next input is a success, an error, or no answer. -/
theorem witness_Operations :
    (idleAt imageS0 0b0101 [.answer (.ok 1 2 3)]).busy = .idle ∧
    (idleAt imageS0 0b0101 [.answer (.ok 1 2 3)]).events = [.answer (.ok 1 2 3)] ∧
    (idleAt imageS0 0b0101 [.answer (.err 9)]).busy = .idle ∧
    (idleAt imageS0 0b0101 [.answer (.err 9)]).events = [.answer (.err 9)] ∧
    (idleAt imageS0 0b0101 [.blockReset]).busy = .idle ∧
    ∀ a rest, (idleAt imageS0 0b0101 [.blockReset]).events ≠ .answer a :: rest :=
  ⟨by decide, by decide, by decide, by decide, by decide, no_answer _ (.inr rfl)⟩

/-- The two ranges of a setter's code at their boundary, for a field of each width and for a setting
below it; and a rejection whose delivery is the next event, or is not. -/
theorem witness_SetterRule :
    (ncodesDefault.of .mux ≤ (16 : Byte).toNat ∧ (15 : Byte).toNat < ncodesDefault.of .mux) ∧
      (ncodesDefault.of .dr ≤ (8 : Byte).toNat ∧ (7 : Byte).toNat < ncodesDefault.of .dr) ∧
      (ncodesDefault.of .mode ≤ (4 : Byte).toNat ∧
        (3 : Byte).toNat < ncodesDefault.of .mode) ∧
      (ncodesDefault.of .psw ≤ (2 : Byte).toNat ∧ (1 : Byte).toNat < ncodesDefault.of .psw) ∧
      (ncodesDatasheet.of .mux ≤ (15 : Byte).toNat ∧
        (14 : Byte).toNat < ncodesDatasheet.of .mux) ∧
      (idleAt imageS0 0 [.deliver]).events = .deliver :: [] ∧
      ∀ rest, (idleAt imageS0 0 []).events ≠ .deliver :: rest :=
  ⟨by decide, by decide, by decide, by decide, by decide, rfl, fun _ h => by cases h⟩

theorem witness_SetterCommitsTheUpdatedByte :
    (idleAt imageS0 0 [.answer (.ok 0 0 0)]).busy = .idle ∧
      updateField ncodesDefault BitField.mux.id 3 (imageS0.get BitField.mux.reg) = some 0x35 ∧
      encWreg BitField.mux.reg.addrByte 1 = some 0x40 ∧
      (idleAt imageS0 0 [.answer (.err 6)]).events = [.answer (.err 6)] := by decide

theorem witness_ImageReadAfterWrite : Reg.config0 ≠ .config3 := by decide

theorem witness_StaleFlagsMoveAlone : Reg.config1 ≠ .config2 := by decide

theorem witness_SetterSetsItsFieldAlone :
    (idleAt imageS0 0 [.answer (.ok 0 0 0)]).busy = .idle ∧
      (7 : Byte).toNat < ncodesDefault.of .pgaGain ∧ BitField.mux ≠ .pgaGain ∧
      (idleAt imageS0 0 [.answer (.ok 0 0 0)]).events = .answer (.ok 0 0 0) :: [] := by decide

/-- Two fields of one register, and twice the same field. -/
theorem witness_SettersCommute :
    (3 : Byte).toNat < State.reset.ncodes.of .mux ∧ (7 : Byte).toNat < State.reset.ncodes.of .pgaGain ∧
      (∃ t u v w, AfterSetter .mux 3 State.reset t ∧ AfterSetter .pgaGain 7 t u ∧
        AfterSetter .pgaGain 7 State.reset v ∧ AfterSetter .mux 3 v w) ∧
      (∃ t u v w, AfterSetter .mux 3 State.reset t ∧ AfterSetter .mux 9 t u ∧
        AfterSetter .mux 9 State.reset v ∧ AfterSetter .mux 3 v w) :=
  ⟨by decide, by decide,
    ⟨_, _, _, _, ⟨0, 0, 0, [], rfl⟩, ⟨0, 0, 0, [], rfl⟩, ⟨0, 0, 0, [], rfl⟩, ⟨0, 0, 0, [], rfl⟩⟩,
    ⟨_, _, _, _, ⟨0, 0, 0, [], rfl⟩, ⟨0, 0, 0, [], rfl⟩, ⟨0, 0, 0, [], rfl⟩, ⟨0, 0, 0, [], rfl⟩⟩⟩

theorem witness_FailedTransactionLeavesImage :
    (idleAt imageS0 0 [.answer (.err 6)]).busy = .idle ∧ (Instr.setfMux 3).wf ncodesDefault = true ∧
      portOfCommand (.setfMux 3) = none ∧
      (idleAt imageS0 0 [.answer (.err 6)]).events = .answer (.err 6) :: [] := by decide

theorem witness_StepRunsTheDecodedRequest :
    (asks imageS0 0 0x6107 (.ok 0 0 0)).events = .request 0x6107 :: [.answer (.ok 0 0 0)] ∧
      (asks imageS0 0 0x6107 (.ok 0 0 0)).busy = .idle ∧
      decode ncodesDefault (.request 0x6107) = .ok (.setfPgaGain 7) := by decide

theorem witness_PlacedWordRuns :
    (Instr.setfDr 7).wf ncodesDefault = true ∧ encode (.setfDr 7) = .request 0x6307 ∧
      (Instr.cmdRreg 0 4).wf ncodesDefault = true ∧ encode (.cmdRreg 0 4) = .command 0x23 := by decide

/-- A rejected request whose response is delivered at once, one whose response is not, and a block that
owes it, with no event, with the delivery, and with another event. -/
theorem witness_InvalidRequestIsAnswered :
    (idleAt imageS0 0 [.request 0x5F00, .deliver]).events = .request 0x5F00 :: [.deliver] ∧
      (idleAt imageS0 0 [.request 0x5F00, .deliver]).busy = .idle ∧
      decodeRequest ncodesDefault 0x5F00 = .error .badAddress ∧
      (asks imageS0 0 0x5F00 (.ok 0 0 0)).events = .request 0x5F00 :: [.answer (.ok 0 0 0)] ∧
      (∀ tail, [EnvEvent.answer (.ok 0 0 0)] ≠ .deliver :: tail) ∧
      (rejectingAt []).busy = .rejecting ∧ (rejectingAt []).events = [] ∧
      (rejectingAt [.deliver]).events = .deliver :: [] ∧
      (rejectingAt [.request 0x1000]).events = .request 0x1000 :: [] ∧
      EnvEvent.request 0x1000 ≠ .deliver ∧ EnvEvent.request 0x1000 ≠ .blockReset :=
  ⟨rfl, rfl, by decide, rfl, fun _ h => by simp at h, rfl, rfl, rfl, rfl, by decide, by decide⟩

theorem witness_BusyBlockTurnsRequestsAway :
    (busyAt .rdata [.request 0x1000]).busy ≠ .idle ∧
      (busyAt .rdata [.request 0x1000]).events = .request 0x1000 :: [] ∧
      (rejectingAt [.request 0x1000]).busy ≠ .idle ∧
      portOfCommand .reset = none := by decide

/-- An operation of each shape in flight, answered with success or with an error. -/
theorem witness_AnswerCompletesTheOperation :
    ([.reset, .start, .powerdown, .rdata, .rreg .config3, .setf .config1 0x7A] : List Flight).all
      (fun f => decide ((busyAt f [.answer (.ok 1 2 3)]).busy = .inFlight f) &&
        decide ((busyAt f [.answer (.ok 1 2 3)]).events = .answer (.ok 1 2 3) :: []) &&
        decide ((busyAt f [.answer (.err 5)]).events = .answer (.err 5) :: [])) = true := by decide

theorem witness_UnansweredTransactionWaits :
    (busyAt .start []).busy = .inFlight .start ∧ (busyAt .start []).events = [] ∧
      (busyAt .start [.port .encRdata]).busy = .inFlight .start ∧
      (busyAt .start [.port .encRdata]).events = .port .encRdata :: [] ∧
      (∀ a, EnvEvent.port .encRdata ≠ .answer a) ∧ EnvEvent.port .encRdata ≠ .blockReset := by
  refine ⟨rfl, rfl, rfl, rfl, ?_, ?_⟩
  · intro a h
    cases h
  · intro h
    cases h

theorem witness_BlockResetEvent :
    (busyAt .rdata [.blockReset]).events = .blockReset :: [] ∧
      (rejectingAt [.blockReset]).events = .blockReset :: [] := by decide

theorem witness_PortsTouchNoState :
    (busyAt .rdata [.port (.sext24 0x800000)]).events = .port (.sext24 0x800000) :: [] := by decide

/-- One operation of each class, with a next state. -/
theorem witness_OperationFrame :
    (∃ t, exec (.cmdRreg 4 1) (busyAt .rdata []) = .next t ∧ (Instr.cmdRreg 4 1).opClass = .port) ∧
      (∃ t, exec .rdata (idleAt imageS0 0b1000 [.answer (.err 4)]) = .next t ∧
        Instr.rdata.opClass = .load) ∧
      (∃ t, exec (.setfMux 3) (idleAt imageS0 0 [.answer (.ok 0 0 0)]) = .next t ∧
        Instr.setfMux 3 = .setter .mux 3 ∧ Reg.config1 ≠ BitField.mux.reg) ∧
      ∃ t, exec .reset (idleAt imageS0 0 []) = .next t :=
  ⟨⟨_, rfl, rfl⟩, ⟨_, rfl, rfl⟩, ⟨_, rfl, rfl, by decide⟩, ⟨_, rfl⟩⟩

/-- The three ways an image changes, each from an image that is not the reset image. -/
theorem witness_ImageIsWrittenOnlyByRule :
    (∃ t, step (idleAt imageS0 0 [.blockReset]) = .next t ∧ t.img ≠ imageS0) ∧
      (∃ t, step (asks imageS0 0 0x1000 (.ok 0 0 0)) = .next t ∧ t.img ≠ imageS0) ∧
      ∃ t, step (asks imageS0 0 0x6003 (.ok 0 0 0)) = .next t ∧ t.img ≠ imageS0 :=
  ⟨⟨_, rfl, by decide⟩, ⟨_, rfl, by decide⟩, ⟨_, rfl, by decide⟩⟩

theorem witness_RecordIsNeverRead :
    ∃ t, step (history [.request 0x1000]) = .next t := ⟨_, rfl⟩

/-- The hypotheses of the six statements `StepKeeps…` but the last: a state with a setter in flight,
met by its answer. -/
theorem witness_StepKeepsInvariants :
    (pending [.port .encRdata, .answer (.err 7)]).busy = .inFlight (.setf .config3 0x02) ∧
    ReservedBitClear (pending [.port .encRdata]) ∧ MirrorsAcknowledged (pending [.port .encRdata]) ∧
    FlagsTellDoubt (pending [.port .encRdata]) ∧ EachRequestAnsweredOnce (pending [.port .encRdata]) ∧
    EachTransactionAnsweredOnce (pending [.port .encRdata]) ∧
    ∃ t, step (pending [.port .encRdata]) = .next t := by
  refine ⟨by decide, ⟨by decide, ?_⟩, by unfold MirrorsAcknowledged; decide, by unfold FlagsTellDoubt; decide,
    by unfold EachRequestAnsweredOnce; decide, by unfold EachTransactionAnsweredOnce; decide, ⟨_, rfl⟩⟩
  intro new h
  have hb : (pending [.port .encRdata]).busy = .inFlight (.setf .config3 0x02) := by decide
  rw [hb] at h
  cases h
  decide

/-- The same hypotheses in a state with an acknowledged setter behind it. -/
theorem witness_StepKeepsInvariants_after_a_setter :
    (history [.request 0x6003]).img = ⟨0, 0, 0, 0x02⟩ ∧ MirrorsAcknowledged (history [.request 0x6003]) ∧
    FlagsTellDoubt (history [.request 0x6003]) ∧ EachRequestAnsweredOnce (history [.request 0x6003]) ∧
    EachTransactionAnsweredOnce (history [.request 0x6003]) ∧
    ∃ t, step (history [.request 0x6003]) = .next t :=
  ⟨by decide, by unfold MirrorsAcknowledged; decide, by unfold FlagsTellDoubt; decide,
    by unfold EachRequestAnsweredOnce; decide, by unfold EachTransactionAnsweredOnce; decide, ⟨_, rfl⟩⟩

/-- The hypotheses of `StepKeepsOneResponseEach` where a rejected request awaits its response. -/
theorem witness_StepKeepsOneResponseEach_while_rejecting :
    (after (idleAt Image.reset 0 [.request 0x6804])).busy = .rejecting ∧
      EachRequestAnsweredOnce (after (idleAt Image.reset 0 [.request 0x6804])) ∧
      ∃ t, step (after (idleAt Image.reset 0 [.request 0x6804])) = .next t :=
  ⟨by decide, by unfold EachRequestAnsweredOnce; decide, ⟨_, rfl⟩⟩

/-- A faithful converter, begun at its defaults, after one acknowledged setter. -/
theorem witness_StepKeepsFaithfulDeviceAgreement :
    FaithfulDeviceAgrees (history [.request 0x6003]) ∧ NoBlockReset (history [.request 0x6003]).trace ∧
      deviceRun (history [.request 0x6003]).trace Image.reset ⟨0, 0, 0, 0x02⟩ ∧
      ∃ t, step (history [.request 0x6003]) = .next t := by
  have ht : (history [.request 0x6003]).trace =
      [.responded (.ok .nothing), .answered [.write [0x4C], .write [0x02]] (.ok []),
        .handedOver [.write [0x4C], .write [0x02]], .accepted 0x6E01] := by decide
  have hi : (history [.request 0x6003]).img = Image.reset.set .config3 0x02 := by decide
  have hw : wireEffect [.write [0x4C], .write [0x02]] = .writeReg .config3 0x02 := by decide
  refine ⟨?_, ?_, ?_, ⟨_, rfl⟩⟩
  · intro _ start dev h0 hd r _
    rw [ht] at hd
    obtain ⟨m1, ⟨m2, ⟨m3, ⟨m4, h4, h3⟩, h2⟩, h1⟩, hr⟩ := hd
    simp only [deviceRun] at h4
    simp only [deviceFollows, hw, deviceMayBecome] at h1 h2 h3 hr
    have hs : start = Image.reset := by
      cases start
      have e0 := h0 .config0
      have e1 := h0 .config1
      have e2 := h0 .config2
      have e3 := h0 .config3
      simp only [Image.get] at e0 e1 e2 e3
      rw [e0, e1, e2, e3]
      rfl
    rw [hi, hr, h1, h2, h3, h4, hs]
  · intro was h
    rw [ht] at h
    simp at h
  · rw [ht]
    refine ⟨⟨0, 0, 0, 0x02⟩, ⟨Image.reset, ⟨Image.reset, ⟨Image.reset, rfl, rfl⟩, rfl⟩, ?_⟩, rfl⟩
    simp only [deviceFollows, hw, deviceMayBecome]
    rfl

/-- A faithful converter answers RREG with its byte (93_implementation_defined.md U6). -/
theorem test_deviceReadsBack : deviceReadsBack (.ok 0x3E 0 0) .config0 ⟨0x3E, 0, 0, 0⟩ := rfl

end Sys2Proof.Tests
end

section
/-! The pure-function ports (00_scope.md R4, 10_state.md R30): what a step does when the next event is
the use of a port. -/

namespace Sys2Proof.Machine

/-- A step takes the next event out of the environment's inputs and meets it. -/
theorem step_of_events_cons {s : State} {e : EnvEvent} {rest : List EnvEvent}
    (he : s.events = e :: rest) : step s = onEvent e { s with events := rest } := by
  simp only [step, he]

/-- The use of a port is taken at once, whatever `BUSY` is: no arm of the event reads it. -/
theorem step_of_port {s : State} {c : PortCall} {rest : List EnvEvent}
    (he : s.events = .port c :: rest) : step s = .next (usePort c { s with events := rest }) :=
  calc step s = onEvent (.port c) { s with events := rest } := step_of_events_cons he
    _ = .next (usePort c { s with events := rest }) := onPort_eq c _

/-- Settles O46: the step is the use of the port, and `usePort` adds one entry to the record, with the
outputs the operands and `NCODES` give. -/
theorem portsTouchNoState : Obligations.PortsTouchNoState := by
  intro s c rest he
  rw [step_of_port he]
  rfl

end Sys2Proof.Machine
end

section
/-! The step as a sequence of moves of the block, each one action of 43_operations.md R130 or one event
of the environment: an invariant that every move keeps is kept by every step (`step_keeps`). -/

namespace Sys2Proof.Machine

/-- A setter carries the byte that `UPDATE_FIELD` builds from the image byte of its register
(43_operations.md R130 action 3, R136). -/
def Flight.BuiltFrom (s : State) (f : Flight) : Prop :=
  ∀ r new, f = .setf r new → ∃ (g : BitField) (code : Byte), r = g.reg ∧
    updateField s.ncodes g.id code (s.img.get g.reg) = some new

/-- One move of the block. -/
inductive Move : State → State → Prop where
  /-- Inputs are taken from the environment, without any other effect. -/
  | takeEvents (s : State) (es : List EnvEvent) : Move s { s with events := es }
  /-- A pure-function port is used. -/
  | showPort (s : State) (c : PortCall) : Move s (usePort c s)
  /-- A request is accepted and rejected; its response is due (R154). -/
  | acceptRejected (s : State) (w : RequestWord) (idle : s.busy = .idle) :
      Move s { s with busy := .rejecting, trace := .accepted w :: s.trace }
  /-- The response to a rejected request is delivered. -/
  | deliver (s : State) (due : s.busy = .rejecting) : Move s (rejectInvalid s)
  /-- A request is accepted and its transaction handed over (R130 actions 1 to 4). -/
  | handOver (s : State) (w : RequestWord) (f : Flight) (idle : s.busy = .idle)
      (built : f.BuiltFrom s) :
      Move s { s with
        busy := .inFlight f, trace := .handedOver f.steps :: .accepted w :: s.trace }
  /-- The transaction in flight is answered (R130 actions 5 and 6). -/
  | complete (s : State) (f : Flight) (a : Answer) (flight : s.busy = .inFlight f) :
      Move s (complete f a s)
  /-- Block reset (70_reset_and_hazards.md R181). -/
  | blockReset (s : State) : Move s (blockReset s)

section
variable {P : State → Prop} (keeps : ∀ s t, Move s t → P s → P t)
include keeps

theorem reject_keeps (s : State) (w : RequestWord) (idle : s.busy = .idle) (h : P s) :
    P (reject (s.record (.accepted w))) := by
  have due := keeps _ _ (.acceptRejected s w idle) h
  obtain ⟨rest, -, he⟩ | ⟨-, he⟩ := reject_cases (s.record (.accepted w))
  · rw [he]
    exact keeps _ _ (.deliver _ rfl) (keeps _ _ (.takeEvents _ rest) due)
  · rw [he]
    exact due

theorem transact_keeps (s : State) (w : RequestWord) (f : Flight) (idle : s.busy = .idle)
    (built : f.BuiltFrom s) (h : P s) : P (transact f (s.record (.accepted w))) := by
  have waiting := keeps _ _ (.handOver s w f idle built) h
  obtain ⟨a, rest, -, he⟩ | ⟨-, he⟩ := transact_cases f (s.record (.accepted w))
  · rw [he]
    exact keeps _ _ (.complete _ f a rfl) (keeps _ _ (.takeEvents _ rest) waiting)
  · rw [he]
    exact waiting

/-- What every move keeps, every step keeps. -/
theorem step_keeps {s t : State} (h : P s) (hs : step s = .next t) : P t := by
  obtain ⟨-, ⟨due, rfl⟩ | ⟨-, rfl⟩⟩ | ⟨e, rest, -, hcases⟩ := step_cases s t hs
  · exact keeps _ _ (.deliver s due) h
  · exact h
  have taken : P { s with events := rest } := keeps _ _ (.takeEvents s rest) h
  obtain ⟨w, -, ⟨-, rfl⟩ | ⟨idle, rfl | ⟨f, rfl, built⟩⟩⟩ | ⟨a, -, ⟨-, rfl⟩ | ⟨f, flight, rfl⟩⟩ |
    ⟨c, -, rfl⟩ | ⟨-, ⟨due, rfl⟩ | ⟨-, rfl⟩⟩ | ⟨-, rfl⟩ := hcases
  · exact taken
  · exact reject_keeps keeps _ w idle taken
  · exact transact_keeps keeps _ w f idle built taken
  · exact taken
  · exact keeps _ _ (.complete _ f a flight) taken
  · exact keeps _ _ (.showPort _ c) taken
  · exact keeps _ _ (.deliver _ due) taken
  · exact taken
  · exact keeps _ _ (.blockReset _) taken

end

end Sys2Proof.Machine
end

section
/-! The invariants of the steps (10_state.md R14, R27, R31, R32; 20_memory.md R52), each shown move by
move, and their base case at block reset. -/

namespace Sys2Proof.Machine

/-! ### The reserved bit -/

/-- No field of CONFIG3 holds bit 0 (10_state.md R31). -/
theorem mask_config3_bit0 (g : BitField) (hg : g.reg = .config3) : g.mask.getLsbD 0 = false := by
  cases g <;> first | rfl | cases hg

/-- A masked update never moves a bit outside the mask (40_bitfield.md R86). -/
theorem applyField_outside (byte mask bits : Byte) (i : Nat) (hi : i < 8)
    (h : mask.getLsbD i = false) : (applyField byte mask bits).getLsbD i = byte.getLsbD i := by
  simp only [applyField, BitVec.getLsbD_or, BitVec.getLsbD_and, BitVec.getLsbD_not, h, hi]
  simp

/-- The byte a setter of CONFIG3 sends has the reserved bit of the image. -/
theorem builtFrom_config3_bit0 {s : State} {new : Byte}
    (built : (Flight.setf .config3 new).BuiltFrom s) :
    new.getLsbD 0 = s.img.config3.getLsbD 0 := by
  obtain ⟨g, code, hg, hu⟩ := built _ _ rfl
  rw [updateField_field, ← hg] at hu
  split at hu
  · cases hu
    exact applyField_outside _ _ _ 0 (by omega) (mask_config3_bit0 g hg.symm)
  · cases hu

/-- A completed operation leaves CONFIG3 as it was, at its reset value, or with the byte that was in
flight to it. -/
theorem complete_config3 (f : Flight) (a : Answer) (s : State) :
    (complete f a s).img.config3 = s.img.config3 ∨ (complete f a s).img.config3 = 0x00#8 ∨
      f = .setf .config3 (complete f a s).img.config3 := by
  cases a with
  | err e => exact .inl (by rw [complete_err])
  | ok b0 b1 b2 =>
    rw [complete_ok]
    cases f with
    | reset => exact .inr (.inl rfl)
    | setf r new =>
      cases r with
      | config3 => exact .inr (.inr rfl)
      | _ => exact .inl rfl
    | _ => exact .inl rfl

theorem complete_busy (f : Flight) (a : Answer) (s : State) : (complete f a s).busy = .idle := by
  cases a <;> simp only [complete_ok, complete_err]

/-- Settles O51: only `handOver` puts a byte in flight, built from the image, and only `complete`
writes it. -/
theorem stepKeepsReservedBitClear : Obligations.StepKeepsReservedBitClear := by
  intro s t hs
  refine step_keeps (P := ReservedBitClear) ?_ hs
  intro s t move ⟨image, flight⟩
  cases move with
  | takeEvents es => exact ⟨image, flight⟩
  | showPort c => exact ⟨image, flight⟩
  | acceptRejected w => exact ⟨image, by simp⟩
  | deliver => exact ⟨image, by simp⟩
  | handOver w f idle built =>
    refine ⟨image, fun new hf => ?_⟩
    cases hf
    rw [builtFrom_config3_bit0 built, image]
  | complete f a hf =>
    refine ⟨?_, by simp [complete_busy]⟩
    obtain h | h | h := complete_config3 f a s
    · rw [h, image]
    · rw [h]
      rfl
    · exact flight _ (h ▸ hf)
  | blockReset => exact ⟨show Image.reset.config3.getLsbD 0 = false by decide, by simp⟩

/-! ### The image and the flags against the record -/

/-- The record's reading of an acknowledged transaction is the success change of its operation. -/
theorem ackedImage_acknowledged (f : Flight) (received : List (List Byte)) (s : State)
    (h : s.img = ackedImage s.trace) :
    (f.onSuccess s).img = ackedImage (.answered f.steps (.ok received) :: s.trace) := by
  cases f <;> simp [ackedImage, wireEffect_steps, Flight.onSuccess, h]

theorem doubtedFlags_acknowledged (f : Flight) (received : List (List Byte)) (s : State)
    (h : s.stale = doubtedFlags s.trace) :
    (f.onSuccess s).stale = doubtedFlags (.answered f.steps (.ok received) :: s.trace) := by
  cases f <;> simp [doubtedFlags, wireEffect_steps, Flight.onSuccess, noneStale, h]

theorem doubtedFlags_failed (f : Flight) (e : Config.E) (s : State)
    (h : s.stale = doubtedFlags s.trace) :
    (f.onFailure s).stale = doubtedFlags (.answered f.steps (.err e) :: s.trace) := by
  cases f <;> simp [doubtedFlags, wireEffect_steps, Flight.onFailure, allStale, h]

/-- Settles O52: an acknowledgement and block reset move image and record alike; the other moves record
nothing that counts. -/
theorem stepKeepsImageAcknowledged : Obligations.StepKeepsImageAcknowledged := by
  intro s t hs
  refine step_keeps (P := MirrorsAcknowledged) ?_ hs
  intro s t move h
  cases move with
  | complete f a =>
    cases a with
    | ok b0 b1 b2 =>
      rw [complete_ok]
      exact ackedImage_acknowledged f (receivedBy f.steps [b0, b1, b2]) s h
    | err e =>
      rw [complete_err]
      exact h
  | blockReset => rfl
  | _ => exact h

/-- Settles O53: each answer moves the flags as it moves the doubt in the record. -/
theorem stepKeepsFlagsTellDoubt : Obligations.StepKeepsFlagsTellDoubt := by
  intro s t hs
  refine step_keeps (P := FlagsTellDoubt) ?_ hs
  intro s t move h
  cases move with
  | complete f a =>
    cases a with
    | ok b0 b1 b2 =>
      rw [complete_ok]
      exact doubtedFlags_acknowledged f (receivedBy f.steps [b0, b1, b2]) s h
    | err e =>
      rw [complete_err]
      exact doubtedFlags_failed f e s h
  | blockReset => rfl
  | _ => exact h

/-! ### One response for each request -/

/-- What completing an operation records: the answer, and one response. -/
theorem complete_trace (f : Flight) (a : Answer) (s : State) :
    ∃ r, (complete f a s).trace =
      .responded r :: .answered f.steps (a.result f.steps) :: s.trace := by
  cases a with
  | ok b0 b1 b2 => exact ⟨_, by rw [complete_ok]; rfl⟩
  | err e => exact ⟨_, by rw [complete_err]; rfl⟩

/-- Settles O54: an acceptance puts a request under way, a response ends the one under way, block reset
drops it. -/
theorem stepKeepsOneResponseEach : Obligations.StepKeepsOneResponseEach := by
  intro s t hs
  refine step_keeps (P := EachRequestAnsweredOnce) ?_ hs
  intro s t move h
  simp only [EachRequestAnsweredOnce, acceptedCount, respondedCount, droppedCount, openCount] at h ⊢
  cases move with
  | takeEvents es => exact h
  | showPort c => simpa using h
  | acceptRejected w idle =>
    simp only [idle, List.countP_cons_of_pos, List.countP_cons_of_neg, Bool.false_eq_true,
      not_false_eq_true] at h ⊢
    omega
  | deliver due =>
    simp only [due, rejectInvalid_trace, rejectInvalid_busy, List.countP_cons_of_pos,
      List.countP_cons_of_neg, Bool.false_eq_true, not_false_eq_true] at h ⊢
    omega
  | handOver w f idle built =>
    simp only [idle, List.countP_cons_of_pos, List.countP_cons_of_neg, Bool.false_eq_true,
      not_false_eq_true] at h ⊢
    omega
  | complete f a flight =>
    obtain ⟨r, ht⟩ := complete_trace f a s
    simp only [flight, ht, complete_busy, List.countP_cons_of_pos, List.countP_cons_of_neg,
      Bool.false_eq_true, not_false_eq_true] at h ⊢
    omega
  | blockReset =>
    cases was : s.busy <;>
      simp only [was, blockReset_trace, blockReset_busy, List.countP_cons_of_pos,
        List.countP_cons_of_neg, Bool.false_eq_true, not_false_eq_true] at h ⊢ <;>
      omega

/-! ### The faithful converter -/

theorem noBlockReset_cons {e : PortEvent} {t : List PortEvent} (h : NoBlockReset (e :: t)) :
    NoBlockReset t :=
  fun was hm => h was (List.mem_cons_of_mem e hm)

/-- An acknowledged transaction leaves the converter in agreement where the operation leaves no flag:
RESET gives both the defaults, a setter gives both its byte. -/
theorem agrees_acknowledged (f : Flight) (received : List (List Byte)) (s : State) (old new : Image)
    (agrees : AgreesWhereNotStale s old)
    (follows : deviceMayBecome (wireEffect f.steps) (.ok received) old new) :
    AgreesWhereNotStale (f.onSuccess s) new := by
  rw [wireEffect_steps] at follows
  intro q hq
  cases f with
  | reset =>
    rw [follows q]
    cases q <;> rfl
  | setf r v =>
    simp only [deviceMayBecome] at follows
    simp only [Flight.onSuccess, isStale_clearStale] at hq ⊢
    rw [follows]
    by_cases hqr : q = r
    · rw [hqr, get_set_same, get_set_same]
    · rw [get_set_other _ _ _ _ hqr, get_set_other _ _ _ _ hqr]
      exact agrees q (by simpa [hqr] using hq)
  | _ =>
    rw [show new = old from follows]
    exact agrees q hq

/-- A failed transaction leaves a flag on every register the converter may have changed. -/
theorem agrees_failed (f : Flight) (e : Config.E) (s : State) (old new : Image)
    (agrees : AgreesWhereNotStale s old)
    (follows : deviceMayBecome (wireEffect f.steps) (.err e) old new) :
    AgreesWhereNotStale (f.onFailure s) new := by
  rw [wireEffect_steps] at follows
  intro q hq
  cases f with
  | reset =>
    rw [Flight.onFailure, isStale_allStale] at hq
    cases hq
  | setf r v =>
    simp only [deviceMayBecome] at follows
    simp only [Flight.onFailure, isStale_markStale, Bool.or_eq_false_iff,
      decide_eq_false_iff_not] at hq ⊢
    obtain ⟨hq, hqr⟩ := hq
    obtain rfl | rfl := follows
    · exact agrees q hq
    · rw [get_set_other _ _ _ _ hqr]
      exact agrees q hq
  | _ =>
    rw [show new = old from follows]
    exact agrees q hq

/-- Nothing but an answer or block reset lets a faithful converter change. -/
theorem deviceRun_cons_still {e : PortEvent} {t : List PortEvent} {start now : Image}
    (run : deviceRun (e :: t) start now) (still : ∀ old new, deviceFollows e old new → new = old) :
    deviceRun t start now := by
  obtain ⟨mid, run, follows⟩ := run
  rw [still mid now follows]
  exact run

/-- What completing an operation adds to a faithful converter's run. -/
theorem deviceRun_complete {f : Flight} {a : Answer} {s : State} {start now : Image}
    (run : deviceRun (complete f a s).trace start now) :
    ∃ mid, deviceRun s.trace start mid ∧
      deviceMayBecome (wireEffect f.steps) (a.result f.steps) mid now := by
  obtain ⟨r, ht⟩ := complete_trace f a s
  rw [ht] at run
  exact deviceRun_cons_still run fun _ _ h => h

/-- Settles O56: the converter changes only in an answered transaction, and then the flags cover every
register on which it may differ from the image. -/
theorem stepKeepsFaithfulDeviceAgreement : Obligations.StepKeepsFaithfulDeviceAgreement := by
  intro s t hs
  refine step_keeps (P := FaithfulDeviceAgrees) ?_ hs
  intro s t move h noReset start dev defaults run
  cases move with
  | takeEvents es => exact h noReset start dev defaults run
  | showPort c =>
    exact h (noBlockReset_cons noReset) start dev defaults
      (deviceRun_cons_still run fun _ _ hf => hf)
  | acceptRejected w =>
    exact h (noBlockReset_cons noReset) start dev defaults
      (deviceRun_cons_still run fun _ _ hf => hf)
  | deliver =>
    exact h (noBlockReset_cons noReset) start dev defaults
      (deviceRun_cons_still run fun _ _ hf => hf)
  | handOver w f =>
    exact h (noBlockReset_cons (noBlockReset_cons noReset)) start dev defaults
      (deviceRun_cons_still (deviceRun_cons_still run fun _ _ hf => hf) fun _ _ hf => hf)
  | complete f a =>
    obtain ⟨r, ht⟩ := complete_trace f a s
    rw [ht] at noReset
    obtain ⟨mid, older, follows⟩ := deviceRun_complete run
    have agrees := h (noBlockReset_cons (noBlockReset_cons noReset)) start mid defaults older
    cases a with
    | ok b0 b1 b2 =>
      rw [complete_ok]
      exact agrees_acknowledged f _ s mid dev agrees follows
    | err e =>
      rw [complete_err]
      simpa [AgreesWhereNotStale] using agrees_failed f e s mid dev agrees follows
  | blockReset => exact absurd List.mem_cons_self (noReset s.busy)

/-! ### Right after block reset -/

theorem reset_img_get (r : Reg) : State.reset.img.get r = 0x00#8 := by cases r <;> rfl

/-- The empty record moves no converter: one that began at its defaults holds the reset image. -/
theorem faithfulDeviceAgrees_reset : FaithfulDeviceAgrees State.reset := by
  intro _ start dev defaults run r _
  rw [show dev = start from run, defaults, reset_img_get]

/-- Settles O57: at block reset the record is empty, the image and the flags are zero and nothing is in
flight. -/
theorem invariantsHoldAtReset : Obligations.InvariantsHoldAtReset :=
  ⟨⟨rfl, fun _ flight => by cases flight⟩, rfl, rfl, rfl, rfl, faithfulDeviceAgrees_reset⟩

end Sys2Proof.Machine
end

section
/-! What an operation leaves unchanged (43_operations.md R156, 60_exceptions.md R164), and what a busy
block turns away (10_state.md R26). -/

namespace Sys2Proof.Machine

/-- A setter is the general setter of its field, whichever of the fifteen it is. -/
theorem exec_setter (f : BitField) (code : Byte) (s : State) :
    exec (.setter f code) s = whenIdle (setField f code) s := by
  cases f <;> rfl

/-- START, POWERDOWN and the loads hand over a transaction that changes neither image nor flags. -/
theorem exec_start_powerdown_load {i : Instr}
    (hi : i = .start ∨ i = .powerdown ∨ i.opClass = .load) :
    ∃ f : Flight, (∀ s, exec i s = whenIdle (transact f) s) ∧
      (∀ s, f.onSuccess s = s) ∧ ∀ s, f.onFailure s = s := by
  obtain rfl | rfl | hl := hi
  · exact ⟨.start, fun _ => rfl, fun _ => rfl, fun _ => rfl⟩
  · exact ⟨.powerdown, fun _ => rfl, fun _ => rfl, fun _ => rfl⟩
  · cases i with
    | rdata => exact ⟨.rdata, fun _ => rfl, fun _ => rfl, fun _ => rfl⟩
    | rreg r => exact ⟨.rreg r, fun _ => rfl, fun _ => rfl, fun _ => rfl⟩
    | _ => cases hl

/-- The wire rows are the uses of the CMD ports. -/
theorem exec_port {i : Instr} (hi : i.opClass = .port) (s : State) :
    ∃ c, exec i s = .next (usePort c s) := by
  cases i with
  | cmdReset | cmdStart | cmdPowerdown | cmdRdata | cmdRreg | cmdWreg => exact ⟨_, rfl⟩
  | _ => cases hi

theorem whenIdle_next {op : State → State} {s t : State} (h : whenIdle op s = .next t) :
    t = s ∨ t = op s := by
  by_cases idle : s.busy = .idle
  · rw [whenIdle_idle op s idle] at h
    cases h
    exact .inr rfl
  · rw [whenIdle_busy op s idle] at h
    cases h
    exact .inl rfl

/-! ### Image and flags -/

theorem reject_img (s : State) : (reject s).img = s.img := by
  obtain ⟨rest, -, h⟩ | ⟨-, h⟩ := reject_cases s
  · rw [h, rejectInvalid_img]
  · rw [h]

theorem reject_stale (s : State) : (reject s).stale = s.stale := by
  obtain ⟨rest, -, h⟩ | ⟨-, h⟩ := reject_cases s
  · rw [h, rejectInvalid_stale]
  · rw [h]

/-- Handing a transaction over leaves image and flags as they are, or as the success change or the
failure change of the operation makes them. -/
theorem transact_img_stale (f : Flight) (s : State) :
    ∃ u ∈ [s, f.onSuccess s, f.onFailure s],
      (transact f s).img = u.img ∧ (transact f s).stale = u.stale := by
  obtain ⟨a, rest, -, h⟩ | ⟨-, h⟩ := transact_cases f s
  · cases a with
    | ok b0 b1 b2 =>
      refine ⟨f.onSuccess s, by simp, ?_⟩
      rw [h, complete_ok]
      cases f <;> exact ⟨rfl, rfl⟩
    | err e =>
      refine ⟨f.onFailure s, by simp, ?_⟩
      rw [h, complete_err]
      cases f <;> exact ⟨rfl, rfl⟩
  · exact ⟨s, by simp, by rw [h], by rw [h]⟩

/-- A setter of register `r` moves no other register's byte and no other register's flag. -/
theorem transact_setf_other (r q : Reg) (new : Byte) (s : State) (hq : q ≠ r) :
    (transact (.setf r new) s).img.get q = s.img.get q ∧
      isStale (transact (.setf r new) s).stale q = isStale s.stale q := by
  obtain ⟨u, hu, himg, hstale⟩ := transact_img_stale (.setf r new) s
  rw [himg, hstale]
  simp only [List.mem_cons, List.not_mem_nil, or_false] at hu
  obtain rfl | rfl | rfl := hu
  · exact ⟨rfl, rfl⟩
  · exact ⟨get_set_other _ _ _ _ hq, by simp [Flight.onSuccess, isStale_clearStale, hq]⟩
  · exact ⟨rfl, by simp [Flight.onFailure, isStale_markStale, hq]⟩

theorem setField_other (f : BitField) (code : Byte) (s : State) (q : Reg) (hq : q ≠ f.reg) :
    (setField f code s).img.get q = s.img.get q ∧
      isStale (setField f code s).stale q = isStale s.stale q := by
  obtain ⟨-, h⟩ | ⟨new, -, h⟩ := setField_cases f code s
  · rw [h, reject_img, reject_stale]
    exact ⟨rfl, rfl⟩
  · rw [h]
    exact transact_setf_other f.reg q new s hq

/-! ### The environment's side -/

/-- At most one answer, or the delivery of a rejection, is taken from the inputs; the parameter stays,
and so does what stood in the record. -/
def EnvironmentFrame (s t : State) : Prop :=
  (t.events = s.events ∨ (∃ a, s.events = .answer a :: t.events) ∨
    s.events = .deliver :: t.events) ∧
  t.ncodes = s.ncodes ∧ ∃ new, t.trace = new ++ s.trace

theorem environmentFrame_refl (s : State) : EnvironmentFrame s s := ⟨.inl rfl, rfl, [], rfl⟩

theorem usePort_environmentFrame (c : PortCall) (s : State) : EnvironmentFrame s (usePort c s) :=
  ⟨.inl rfl, rfl, [_], rfl⟩

theorem reject_environmentFrame (s : State) : EnvironmentFrame s (reject s) := by
  obtain ⟨rest, he, h⟩ | ⟨-, h⟩ := reject_cases s
  · rw [h]
    exact ⟨.inr (.inr he), rfl, [_], rfl⟩
  · rw [h]
    exact ⟨.inl rfl, rfl, [], rfl⟩

theorem transact_environmentFrame (f : Flight) (s : State) : EnvironmentFrame s (transact f s) := by
  refine ⟨?_, transact_ncodes f s, ?_⟩ <;>
    obtain ⟨a, rest, he, h⟩ | ⟨-, h⟩ := transact_cases f s <;> rw [h]
  · refine .inr (.inl ⟨a, ?_⟩)
    cases a <;> simpa only [complete_ok, complete_err] using he
  · exact .inl rfl
  · obtain ⟨r, ht⟩ := complete_trace f a { s with
      busy := .inFlight f, events := rest, trace := .handedOver f.steps :: s.trace }
    exact ⟨[_, _, _], ht⟩
  · exact ⟨[_], rfl⟩

theorem exec_environmentFrame {i : Instr} {s t : State} (h : exec i s = .next t) :
    EnvironmentFrame s t := by
  obtain ⟨c, -, he⟩ | ⟨-, ⟨-, he⟩ | ⟨-, he⟩ | ⟨-, f, he, -⟩⟩ := exec_cases i s <;>
    (rw [he] at h; cases h)
  · exact usePort_environmentFrame c s
  · exact environmentFrame_refl s
  · exact reject_environmentFrame s
  · exact transact_environmentFrame f s

/-- Settles O48: one lemma for each class of operation, and `EnvironmentFrame` for all of them. -/
theorem operationFrame : Obligations.OperationFrame := by
  intro i s t h
  refine ⟨?port, ?quiet, ?setter, exec_environmentFrame h⟩
  case port =>
    intro hi
    obtain ⟨c, he⟩ := exec_port hi s
    rw [he] at h
    cases h
    exact ⟨⟨rfl, rfl, rfl⟩, rfl⟩
  case quiet =>
    intro hi
    obtain ⟨f, he, hok, herr⟩ := exec_start_powerdown_load hi
    rw [he] at h
    obtain rfl | rfl := whenIdle_next h
    · exact ⟨rfl, rfl⟩
    · obtain ⟨u, hu, hsame⟩ := transact_img_stale f s
      simp only [hok, herr, List.mem_cons, List.not_mem_nil, or_false, or_self] at hu
      rwa [hu] at hsame
  case setter =>
    rintro f code rfl r hr
    rw [exec_setter] at h
    obtain rfl | rfl := whenIdle_next h
    · exact ⟨rfl, rfl⟩
    · exact setField_other f code s r hr

/-- Settles O41: a request event and a request operation both ask whether the block is idle. -/
theorem busyBlockTurnsRequestsAway : Obligations.BusyBlockTurnsRequestsAway := by
  intro s busy
  constructor
  · intro w rest he
    rw [step_of_events_cons he]
    cases hb : s.busy with
    | idle => exact absurd hb busy
    | rejecting => rfl
    | inFlight f => rfl
  · intro i hi
    obtain ⟨c, hc, -⟩ | ⟨-, ⟨-, he⟩ | ⟨idle, -⟩ | ⟨idle, -⟩⟩ := exec_cases i s
    · rw [hi] at hc
      cases hc
    · exact he
    · exact absurd idle busy
    · exact absurd idle busy

end Sys2Proof.Machine
end

section
/-! The three places that write the image (10_state.md R12). -/

namespace Sys2Proof.Machine

/-- The image of `t` was written, over the image `old`, by what its newest record says: block reset, an
acknowledged RESET, or the acknowledged write of one byte to one register. -/
def ImageWrittenByRule (old : Image) (t : State) : Prop :=
  (∃ was older, t.trace = .blockReset was :: older ∧ t.img = Image.reset) ∨
  (∃ v received older, t.trace = .responded (.ok v) ::
    .answered [.write [0x06#8]] (.ok received) :: older ∧ t.img = Image.reset) ∨
  (∃ (v : Payload) (received : List (List Byte)) (older : List PortEvent) (r : Reg)
      (cmd new : Byte),
    t.trace = .responded (.ok v) :: .answered [.write [cmd], .write [new]] (.ok received) :: older ∧
    cmd.toNat = 0x40 + 4 * r.addr.toNat ∧ t.img = old.set r new)

/-- A setter sends the WREG byte of its register, then its new byte (43_operations.md R136). -/
theorem setf_steps (r : Reg) (new : Byte) :
    ∃ cmd : Byte, (Flight.setf r new).steps = [.write [cmd], .write [new]] ∧
      cmd.toNat = 0x40 + 4 * r.addr.toNat := by
  cases r <;> exact ⟨_, rfl, rfl⟩

/-- Completing an operation writes the image by rule or not at all. -/
theorem complete_img (f : Flight) (a : Answer) (s : State) :
    (complete f a s).img = s.img ∨ ImageWrittenByRule s.img (complete f a s) := by
  cases a with
  | err e => exact .inl (by rw [complete_err])
  | ok b0 b1 b2 =>
    rw [complete_ok]
    cases f with
    | reset => exact .inr (.inr (.inl ⟨_, _, _, rfl, rfl⟩))
    | setf r new =>
      obtain ⟨cmd, hsteps, hcmd⟩ := setf_steps r new
      exact .inr (.inr (.inr ⟨_, _, _, r, cmd, new, by rw [hsteps], hcmd, rfl⟩))
    | _ => exact .inl rfl

theorem transact_img (f : Flight) (s : State) :
    (transact f s).img = s.img ∨ ImageWrittenByRule s.img (transact f s) := by
  obtain ⟨a, rest, -, h⟩ | ⟨-, h⟩ := transact_cases f s
  · rw [h]
    exact complete_img f a _
  · exact .inl (by rw [h])

/-- Every step leaves the image or writes it by rule. -/
theorem step_img {s t : State} (h : step s = .next t) :
    t.img = s.img ∨ ImageWrittenByRule s.img t := by
  obtain ⟨-, ⟨-, rfl⟩ | ⟨-, rfl⟩⟩ | ⟨e, rest, -, ⟨w, -, ⟨-, rfl⟩ | ⟨-, rfl | ⟨f, rfl, -⟩⟩⟩ |
    ⟨a, -, ⟨-, rfl⟩ | ⟨f, -, rfl⟩⟩ | ⟨c, -, rfl⟩ | ⟨-, ⟨-, rfl⟩ | ⟨-, rfl⟩⟩ | ⟨-, rfl⟩⟩ :=
    step_cases s t h
  · exact .inl rfl
  · exact .inl rfl
  · exact .inl rfl
  · exact .inl (reject_img _)
  · exact transact_img f _
  · exact .inl rfl
  · exact complete_img f a _
  · exact .inl rfl
  · exact .inl rfl
  · exact .inl rfl
  · exact .inr (.inl ⟨_, _, rfl, rfl⟩)

/-- Settles O49: of the outcomes of a step, only a completed operation and block reset move the
image. -/
theorem imageIsWrittenOnlyByRule : Obligations.ImageIsWrittenOnlyByRule :=
  fun _ _ h changed => (step_img h).resolve_left changed

end Sys2Proof.Machine
end

section
/-! The record is never read (10_state.md R17, log entry 5): every operation commutes with putting older
entries under the record (`State.over`), so that no entry can influence it. -/

namespace Sys2Proof.Machine

/-- The state with older entries under its record. -/
def State.over (older : List PortEvent) (s : State) : State := { s with trace := s.trace ++ older }

/-- The same for what a step answers. -/
def outcomeOver (older : List PortEvent) : StepOutcome → StepOutcome
  | .next s => .next (s.over older)
  | .fault r => .fault r
  | .refused r => .refused r

variable (older : List PortEvent) (s : State)

@[simp] theorem over_events : (s.over older).events = s.events := rfl
@[simp] theorem over_busy : (s.over older).busy = s.busy := rfl
@[simp] theorem over_ncodes : (s.over older).ncodes = s.ncodes := rfl
@[simp] theorem over_img : (s.over older).img = s.img := rfl

theorem complete_over (f : Flight) (a : Answer) :
    complete f a (s.over older) = (complete f a s).over older := by
  cases a <;> cases f <;> rfl

theorem transact_over (f : Flight) : transact f (s.over older) = (transact f s).over older := by
  obtain ⟨a, rest, he, h⟩ | ⟨he, h⟩ := transact_cases f s
  · rw [h, transact_answer f (s.over older) a rest he]
    exact complete_over older { s with
      busy := .inFlight f, events := rest, trace := .handedOver f.steps :: s.trace } f a
  · rw [h, transact_wait f (s.over older) he]
    rfl

theorem reject_over : reject (s.over older) = (reject s).over older := by
  obtain ⟨rest, he, h⟩ | ⟨he, h⟩ := reject_cases s
  · rw [h, reject_deliver (s.over older) rest he]
    rfl
  · rw [h, reject_wait (s.over older) he]
    rfl

theorem setField_over (f : BitField) (code : Byte) :
    setField f code (s.over older) = (setField f code s).over older := by
  simp only [setField, over_ncodes, over_img]
  split
  · exact reject_over older s
  · exact transact_over older s _

theorem whenIdle_over {op : State → State} (hop : ∀ s, op (s.over older) = (op s).over older) :
    whenIdle op (s.over older) = outcomeOver older (whenIdle op s) := by
  by_cases idle : s.busy = .idle
  · rw [whenIdle_idle op s idle, whenIdle_idle op (s.over older) idle, hop]
    rfl
  · rw [whenIdle_busy op s idle, whenIdle_busy op (s.over older) idle]
    rfl

/-- The three forms of an operation: the use of a CMD port, one transaction, or the general setter. -/
theorem exec_form (i : Instr) :
    (∃ c, ∀ s, exec i s = .next (usePort c s)) ∨
    (∃ f, ∀ s, exec i s = whenIdle (transact f) s) ∨
    ∃ f code, ∀ s, exec i s = whenIdle (setField f code) s := by
  cases i with
  | cmdReset | cmdStart | cmdPowerdown | cmdRdata | cmdRreg | cmdWreg => exact .inl ⟨_, fun _ => rfl⟩
  | reset | start | powerdown | rdata | rreg => exact .inr (.inl ⟨_, fun _ => rfl⟩)
  | _ => exact .inr (.inr ⟨_, _, fun _ => rfl⟩)

theorem exec_over (i : Instr) : exec i (s.over older) = outcomeOver older (exec i s) := by
  obtain ⟨c, h⟩ | ⟨f, h⟩ | ⟨f, code, h⟩ := exec_form i <;> rw [h, h]
  · rfl
  · exact whenIdle_over older s (transact_over older · f)
  · exact whenIdle_over older s (setField_over older · f code)

theorem runRequest_over (w : RequestWord) :
    runRequest w (s.over older) = outcomeOver older (runRequest w s) := by
  simp only [runRequest, over_ncodes]
  split
  · exact exec_over older (s.record (.accepted w)) _
  · exact congrArg Host.Outcome.next (reject_over older (s.record (.accepted w)))

theorem onEvent_over (e : EnvEvent) :
    onEvent e (s.over older) = outcomeOver older (onEvent e s) := by
  cases e with
  | request w =>
    simp only [onEvent, onRequest, over_busy]
    split
    · exact runRequest_over older s w
    · rfl
    · rfl
  | answer a =>
    simp only [onEvent, onAnswer, over_busy]
    split
    · rfl
    · rfl
    · exact congrArg Host.Outcome.next (complete_over older s _ a)
  | port c =>
    simp only [onEvent, onPort_eq]
    rfl
  | deliver =>
    simp only [onEvent, onDeliver, over_busy]
    split <;> rfl
  | blockReset => rfl

theorem step_over : step (s.over older) = outcomeOver older (step s) := by
  simp only [step, over_events]
  split
  · exact onEvent_over older s .deliver
  · exact onEvent_over older { s with events := _ } _

/-- Settles O50: the step is the step from the empty record, with the old record put under what it
records. -/
theorem recordIsNeverRead : Obligations.RecordIsNeverRead := by
  intro s t h
  have from_empty : ∀ other : List PortEvent, step { s with trace := other } =
      outcomeOver other (step { s with trace := [] }) :=
    fun other => step_over other { s with trace := [] }
  have hs : outcomeOver s.trace (step { s with trace := [] }) = .next t :=
    (from_empty s.trace).symm.trans h
  cases hu : step { s with trace := [] } with
  | next u =>
    rw [hu] at hs
    cases hs
    refine ⟨u.trace, rfl, fun other => ?_⟩
    rw [from_empty, hu]
    rfl
  | fault r => cases r
  | refused r =>
    rw [hu] at hs
    cases hs

end Sys2Proof.Machine
end

section
/-! The register image, the flags, the field table and the observation port (10_state.md R10, R14, R22
to R24, R29). -/

namespace Sys2Proof.Machine

/-- Settles O7: the masks of two fields of one register, pair by pair, and their unions. -/
theorem fieldMasksAreDisjoint : Obligations.FieldMasksAreDisjoint := by
  refine ⟨?_, by decide⟩
  intro f g
  cases f <;> cases g <;> decide

/-- Settles O33, from the two rules of `Image.set`. -/
theorem imageReadAfterWrite : Obligations.ImageReadAfterWrite :=
  fun m r q v => ⟨get_set_same m r v, get_set_other m r q v⟩

/-- Settles O34: marking and clearing are `or` and `and not` at the one register. -/
theorem staleFlagsMoveAlone : Obligations.StaleFlagsMoveAlone := by
  intro flags r q
  simp only [isStale_markStale, isStale_clearStale]
  exact ⟨by simp, by simp, fun hq => by simp [hq]⟩

/-- A field of a byte that is 0 decodes to code 0. -/
theorem decodeField_zero (f : BitField) : decodeField f.id 0x00#8 = some 0#8 := by
  simp only [decodeField, ofId_id, BitVec.zero_and, BitVec.zero_ushiftRight]

/-- Settles O45: every image byte is 0 at reset, and so is every field of it. -/
theorem resetStateValues : Obligations.ResetStateValues :=
  ⟨reset_img_get, rfl, rfl, rfl, fun f => by rw [reset_img_get, decodeField_zero]⟩

theorem reqReady_iff_idle (s : State) : s.reqReady = 1#1 ↔ s.busy = .idle := by
  cases hb : s.busy <;> simp [State.reqReady, Busy.bit, hb]

/-- Settles O59: the port shows the four bytes, which are the image, and the bit whose complement is
`req_ready`. -/
theorem observationPort : Obligations.ObservationPort := by
  refine ⟨fun s => ⟨rfl, reqReady_iff_idle s⟩, fun s t h => ?_⟩
  simp only [State.observe, Observation.mk.injEq] at h
  obtain ⟨h0, h1, h2, h3, hstale, hbusy⟩ := h
  refine ⟨image_ext_get _ _ fun r => ?_, hstale, by rw [State.reqReady, State.reqReady, hbusy]⟩
  cases r with
  | config0 => exact h0
  | config1 => exact h1
  | config2 => exact h2
  | config3 => exact h3

end Sys2Proof.Machine
end

section
/-! One transaction at a time (20_memory.md R49, 43_operations.md R130 action 4): what is in flight, the
entries of the record that count, and the balance between them. -/

namespace Sys2Proof.Machine

theorem inFlightCount_idle {s : State} (h : s.busy = .idle) : inFlightCount s = 0 := by
  simp only [inFlightCount, h]

theorem inFlightCount_rejecting {s : State} (h : s.busy = .rejecting) : inFlightCount s = 0 := by
  simp only [inFlightCount, h]

theorem inFlightCount_inFlight {s : State} {f : Flight} (h : s.busy = .inFlight f) :
    inFlightCount s = 1 := by
  simp only [inFlightCount, h]

theorem handedOverCount_handedOver (steps : List XStep) (t : List PortEvent) :
    handedOverCount (.handedOver steps :: t) = handedOverCount t + 1 :=
  List.countP_cons_of_pos rfl

theorem answeredCount_answered (steps : List XStep) (r : XactResult) (t : List PortEvent) :
    answeredCount (.answered steps r :: t) = answeredCount t + 1 :=
  List.countP_cons_of_pos rfl

/-- Block reset abandons what is in flight, and nothing else. -/
theorem abandonedCount_blockReset (s : State) :
    abandonedCount (.blockReset s.busy :: s.trace) = abandonedCount s.trace + inFlightCount s := by
  cases was : s.busy with
  | inFlight f =>
    rw [inFlightCount_inFlight was]
    exact List.countP_cons_of_pos rfl
  | idle =>
    rw [inFlightCount_idle was]
    rfl
  | rejecting =>
    rw [inFlightCount_rejecting was]
    rfl

/-- Settles O55: `handOver` needs an idle block, so the transaction in flight is the only one, and
`complete` and block reset are the two ways it ends; the other moves record nothing that counts. -/
theorem stepKeepsOneTransactionAtATime : Obligations.StepKeepsOneTransactionAtATime := by
  intro s t hs
  refine step_keeps (P := EachTransactionAnsweredOnce) ?_ hs
  intro s t move h
  cases move with
  | takeEvents es => exact h
  | showPort c => exact h
  | acceptRejected w idle =>
    rw [EachTransactionAnsweredOnce, inFlightCount_idle idle] at h
    exact h
  | deliver due =>
    rw [EachTransactionAnsweredOnce, inFlightCount_rejecting due] at h
    exact h
  | handOver w f idle built =>
    rw [EachTransactionAnsweredOnce, inFlightCount_idle idle] at h
    change handedOverCount (.handedOver f.steps :: s.trace) =
      answeredCount s.trace + 1 + abandonedCount s.trace
    rw [handedOverCount_handedOver]
    omega
  | complete f a flight =>
    obtain ⟨r, ht⟩ := complete_trace f a s
    rw [EachTransactionAnsweredOnce, inFlightCount_inFlight flight] at h
    rw [EachTransactionAnsweredOnce, inFlightCount_idle (complete_busy f a s), ht]
    change handedOverCount s.trace =
      answeredCount (.answered f.steps (a.result f.steps) :: s.trace) + 0 + abandonedCount s.trace
    rw [answeredCount_answered]
    omega
  | blockReset =>
    rw [EachTransactionAnsweredOnce] at h
    change handedOverCount s.trace =
      answeredCount s.trace + 0 + abandonedCount (.blockReset s.busy :: s.trace)
    rw [abandonedCount_blockReset]
    omega

end Sys2Proof.Machine
end

section
/-! The wire commands (30_encoding.md R60 to R65): what the decoder answers for a command byte, the
operands an F-REG byte carries, and the data that follows a command byte. -/

namespace Sys2Proof.Machine

/-! ### The parts of an F-REG byte -/

theorem commandByte_nibble (op : BitVec 4) (addr count : Byte) :
    (commandByte op addr count).extractLsb' 4 4 = op := by
  rw [commandByte, BitVec.extractLsb'_append_eq_of_le (by decide)]
  exact BitVec.extractLsb'_append_eq_left

theorem commandAddr_commandByte (op : BitVec 4) (addr count : Byte) :
    commandAddr (commandByte op addr count) = (addr.extractLsb' 0 2).setWidth 8 := by
  rw [commandAddr, commandByte, BitVec.extractLsb'_append_eq_of_le (by decide)]
  exact congrArg _ BitVec.extractLsb'_append_eq_right

theorem commandCount_commandByte (op : BitVec 4) (addr count : Byte) :
    commandCount (commandByte op addr count) =
      ((count - 1#8).extractLsb' 0 2).setWidth 8 + 1#8 := by
  rw [commandCount, commandByte, BitVec.extractLsb'_append_eq_right]

/-- Two bits hold a number below 4 without loss. -/
theorem setWidth_extractLsb'_two {b : Byte} (h : b.toNat < 4) :
    (b.extractLsb' 0 2).setWidth 8 = b := by
  apply BitVec.eq_of_toNat_eq
  rw [BitVec.toNat_setWidth, BitVec.extractLsb'_toNat, Nat.shiftRight_zero]
  omega

/-- An F-REG byte carries operands of the domain without loss: the address in two bits, the count
less one in two others (30_encoding.md R63). -/
theorem commandByte_operands (op : BitVec 4) {addr count : Byte}
    (h : commandDomain addr count = true) :
    commandAddr (commandByte op addr count) = addr ∧
      commandCount (commandByte op addr count) = count := by
  obtain ⟨haddr, hlow, hhigh⟩ := (commandDomain_iff addr count).1 h
  have hcount : (count - 1#8).toNat < 4 := by bv_omega
  constructor
  · rw [commandAddr_commandByte, setWidth_extractLsb'_two (by omega)]
  · rw [commandCount_commandByte, setWidth_extractLsb'_two hcount, BitVec.sub_add_cancel]

/-- An F-REG byte is its opcode nibble and its two operands: no bit of it is left over. -/
theorem commandByte_of_parts (b : Byte) :
    commandByte (b.extractLsb' 4 4) (commandAddr b) (commandCount b) = b := by
  have addr : (commandAddr b).extractLsb' 0 2 = b.extractLsb' 2 2 := by
    rw [commandAddr, BitVec.extractLsb'_setWidth_of_le (by decide), BitVec.extractLsb'_eq_self]
  have count : (commandCount b - 1#8).extractLsb' 0 2 = b.extractLsb' 0 2 := by
    rw [commandCount, BitVec.add_sub_cancel, BitVec.extractLsb'_setWidth_of_le (by decide),
      BitVec.extractLsb'_eq_self]
  rw [commandByte, addr, count]
  have upper : b.extractLsb' 4 4 ++ b.extractLsb' 2 2 = b.extractLsb' 2 6 :=
    BitVec.extractLsb'_append_extractLsb'_eq_extractLsb' rfl
  rw [upper]
  exact BitVec.extractLsb'_append_extractLsb'

/-- The operands read from a byte are in the domain, whatever the byte (41_command_encoder.md R118
(b)). -/
theorem commandDomain_of_byte (b : Byte) :
    commandDomain (commandAddr b) (commandCount b) = true := by
  have twoBits : ∀ n : BitVec 2, (n.setWidth 8).toNat < 4 := fun n => by
    rw [BitVec.toNat_setWidth]
    omega
  have addr : (commandAddr b).toNat < 4 := twoBits _
  have count : ((b.extractLsb' 0 2).setWidth 8).toNat < 4 := twoBits _
  rw [commandDomain_iff, commandCount]
  bv_omega

theorem nibble_eq_iff (b : Byte) (op : BitVec 4) :
    b.extractLsb' 4 4 = op ↔ b.toNat / 16 = op.toNat := by
  rw [← BitVec.toNat_inj, BitVec.extractLsb'_toNat, Nat.shiftRight_eq_div_pow]
  have := b.isLt
  omega

/-! ### What decodes -/

theorem decodeCommand_rreg {b : Byte} (h : b.extractLsb' 4 4 = 0b0010#4) :
    decodeCommand b = .ok (.cmdRreg (commandAddr b) (commandCount b)) := by
  unfold decodeCommand
  iterate 4 rw [if_neg (by rintro rfl; cases h)]
  rw [if_pos h]

theorem decodeCommand_wreg {b : Byte} (h : b.extractLsb' 4 4 = 0b0100#4) :
    decodeCommand b = .ok (.cmdWreg (commandAddr b) (commandCount b)) := by
  unfold decodeCommand
  iterate 4 rw [if_neg (by rintro rfl; cases h)]
  rw [if_neg (by rw [h]; decide), if_pos h]

theorem decodeCommand_isOk (b : Byte) :
    (decodeCommand b).isOk = true ↔
      b = 0x06#8 ∨ b = 0x08#8 ∨ b = 0x02#8 ∨ b = 0x10#8 ∨
        b.extractLsb' 4 4 = 0b0010#4 ∨ b.extractLsb' 4 4 = 0b0100#4 := by
  unfold decodeCommand
  split_ifs <;> simp [Except.isOk, Except.toBool, *]

/-- A byte that decodes is the one byte of a wire row, with operands in their domain. -/
theorem decodeCommand_ok {b : Byte} {i : Instr} (h : decodeCommand b = .ok i) :
    (∀ nc, i.wf nc = true) ∧ encode i = .command b := by
  unfold decodeCommand at h
  split_ifs at h with hreset hstart hpowerdown hrdata hrreg hwreg <;> cases h
  · exact ⟨fun _ => rfl, by rw [hreset]; rfl⟩
  · exact ⟨fun _ => rfl, by rw [hstart]; rfl⟩
  · exact ⟨fun _ => rfl, by rw [hpowerdown]; rfl⟩
  · exact ⟨fun _ => rfl, by rw [hrdata]; rfl⟩
  · exact ⟨fun _ => commandDomain_of_byte b, by rw [encode, ← hrreg, commandByte_of_parts]⟩
  · exact ⟨fun _ => commandDomain_of_byte b, by rw [encode, ← hwreg, commandByte_of_parts]⟩

/-- Settles O5: the opcode nibbles of the two register transfers are the two ranges of the table. -/
theorem commandBytesAreThirtySix : Obligations.CommandBytesAreThirtySix := by
  intro b
  rw [decodeCommand_isOk, nibble_eq_iff, nibble_eq_iff]
  simp only [← BitVec.toNat_inj, BitVec.reduceToNat]
  omega

/-! ### The data that follows a command byte -/

theorem dataPhase_encRreg_reg (r : Reg) :
    ∃ cmd, encRreg r.addrByte Config.opCount = some cmd ∧ dataPhase cmd = some (.fromDevice 1) :=
  ⟨_, encRreg_reg r, by cases r <;> rfl⟩

theorem dataPhase_encWreg_reg (r : Reg) :
    ∃ cmd, encWreg r.addrByte Config.opCount = some cmd ∧ dataPhase cmd = some (.toDevice 1) :=
  ⟨_, encWreg_reg r, by cases r <;> rfl⟩

/-- Settles O20: a transaction is a fixed command alone, the sample read, or the transfer of one
register byte. -/
theorem commandByteTellsTheTransaction : Obligations.CommandByteTellsTheTransaction := by
  intro f
  cases f with
  | reset => exact ⟨encReset, [], rfl, .inl ⟨rfl, rfl⟩⟩
  | start => exact ⟨encStart, [], rfl, .inl ⟨rfl, rfl⟩⟩
  | powerdown => exact ⟨encPowerdown, [], rfl, .inl ⟨rfl, rfl⟩⟩
  | rdata => exact ⟨encRdata, [.read 3], rfl, .inr (.inl ⟨3, rfl, rfl⟩)⟩
  | rreg r =>
    obtain ⟨cmd, hcmd, hdata⟩ := dataPhase_encRreg_reg r
    exact ⟨cmd, [.read 1], by rw [Flight.steps, hcmd]; rfl, .inr (.inl ⟨1, rfl, hdata⟩)⟩
  | setf r new =>
    obtain ⟨cmd, hcmd, hdata⟩ := dataPhase_encWreg_reg r
    exact ⟨cmd, [.write [new]], by rw [Flight.steps, hcmd]; rfl, .inr (.inr ⟨[new], rfl, hdata⟩)⟩

end Sys2Proof.Machine
end

section
/-! The request words (30_encoding.md R68 to R71): the three parts of a word, what each operation's
decoder accepts and refuses, and the complete list of the invalid words. -/

namespace Sys2Proof.Machine

/-! ### The parts of a request word -/

@[simp] theorem requestOp_requestWord (op sel : BitVec 4) (arg : Byte) :
    requestOp (requestWord op sel arg) = op := by
  rw [requestOp, requestWord, BitVec.extractLsb'_append_eq_of_le (by decide)]
  exact BitVec.extractLsb'_append_eq_left

@[simp] theorem requestSel_requestWord (op sel : BitVec 4) (arg : Byte) :
    requestSel (requestWord op sel arg) = sel := by
  rw [requestSel, requestWord, BitVec.extractLsb'_append_eq_of_le (by decide)]
  exact BitVec.extractLsb'_append_eq_right

@[simp] theorem requestArg_requestWord (op sel : BitVec 4) (arg : Byte) :
    requestArg (requestWord op sel arg) = arg := by
  rw [requestArg, requestWord, BitVec.extractLsb'_append_eq_right]

/-- A request word is its three parts: no bit of it is left over. -/
theorem requestWord_of_parts {w : RequestWord} {op sel : BitVec 4} {arg : Byte}
    (hop : requestOp w = op) (hsel : requestSel w = sel) (harg : requestArg w = arg) :
    requestWord op sel arg = w := by
  subst hop hsel harg
  have upper : requestOp w ++ requestSel w = w.extractLsb' 8 8 :=
    BitVec.extractLsb'_append_extractLsb'_eq_extractLsb' rfl
  rw [requestWord, upper]
  exact BitVec.extractLsb'_append_extractLsb'

theorem requestOp_toNat (w : RequestWord) : (requestOp w).toNat = w.toNat / 4096 := by
  rw [requestOp, BitVec.extractLsb'_toNat, Nat.shiftRight_eq_div_pow]
  have := w.isLt
  omega

theorem requestSel_toNat (w : RequestWord) : (requestSel w).toNat = w.toNat / 256 % 16 := by
  rw [requestSel, BitVec.extractLsb'_toNat, Nat.shiftRight_eq_div_pow]

theorem requestArg_toNat (w : RequestWord) : (requestArg w).toNat = w.toNat % 256 := by
  rw [requestArg, BitVec.extractLsb'_toNat, Nat.shiftRight_zero]

/-! ### What each decoder accepts -/

theorem decodeFixed_ok {i j : Instr} {sel : BitVec 4} {arg : Byte}
    (h : decodeFixed i sel arg = .ok j) : sel = 0#4 ∧ arg = 0#8 ∧ i = j := by
  unfold decodeFixed at h
  split_ifs at h with hzero
  cases h
  exact ⟨hzero.1, hzero.2, rfl⟩

theorem ofAddr_addr (r : Reg) : Reg.ofAddr r.addr = r := by cases r <;> rfl

theorem addr_ofAddr (a : BitVec 2) : (Reg.ofAddr a).addr = a := by decide +revert

theorem decodeRreg_ok {sel : BitVec 4} {arg : Byte} {i : Instr} (h : decodeRreg sel arg = .ok i) :
    ∃ r : Reg, sel = r.addr.setWidth 4 ∧ arg = 0#8 ∧ i = .rreg r := by
  unfold decodeRreg at h
  split_ifs at h with hhigh harg
  cases h
  refine ⟨_, ?_, not_not.1 harg, rfl⟩
  rw [addr_ofAddr]
  clear harg
  decide +revert

theorem decodeSetter_ok {nc : Config.NCodes} {sel : BitVec 4} {arg : Byte} {i : Instr}
    (h : decodeSetter nc sel arg = .ok i) :
    ∃ f : BitField, sel = f.id ∧ legalCode nc f arg = true ∧ i = .setter f arg := by
  unfold decodeSetter at h
  split at h
  · cases h
  · next f hf =>
    split_ifs at h with hlegal
    cases h
    exact ⟨f, (id_of_ofId sel f hf).symm, hlegal, rfl⟩

/-! ### The fifteen setters as one family -/

theorem encode_setter (f : BitField) (code : Byte) :
    encode (.setter f code) = .request (setterWord f code) := by
  cases f <;> rfl

theorem wf_setter (nc : Config.NCodes) (f : BitField) (code : Byte) :
    (Instr.setter f code).wf nc = legalCode nc f code := by
  cases f <;> rfl

/-- The word of a setter decodes to it when its code is legal (30_encoding.md R69 to R71). -/
theorem decode_setter {nc : Config.NCodes} {f : BitField} {code : Byte}
    (h : (Instr.setter f code).wf nc = true) :
    decode nc (encode (.setter f code)) = .ok (.setter f code) := by
  rw [wf_setter] at h
  rw [encode_setter]
  simp [decode, decodeRequest, setterWord, decodeSetter, ofId_id, h]

/-- A request word that decodes is the one word of a well-formed request. -/
theorem decodeRequest_ok {nc : Config.NCodes} {w : RequestWord} {i : Instr}
    (h : decodeRequest nc w = .ok i) : i.wf nc = true ∧ encode i = .request w := by
  unfold decodeRequest at h
  split_ifs at h with hop hop hop hop hop hop
  case pos | pos | pos | pos =>
    obtain ⟨hsel, harg, rfl⟩ := decodeFixed_ok h
    exact ⟨rfl, congrArg CodeWord.request (requestWord_of_parts hop hsel harg)⟩
  · obtain ⟨r, hsel, harg, rfl⟩ := decodeRreg_ok h
    exact ⟨rfl, congrArg CodeWord.request (requestWord_of_parts hop hsel harg)⟩
  · obtain ⟨f, hsel, hlegal, rfl⟩ := decodeSetter_ok h
    refine ⟨by rw [wf_setter, hlegal], ?_⟩
    rw [encode_setter, setterWord, requestWord_of_parts hop hsel rfl]

/-! ### What each decoder refuses -/

theorem decodeFixed_error (i : Instr) (sel : BitVec 4) (arg : Byte) :
    (∃ e, decodeFixed i sel arg = .error e) ↔ sel.toNat ≠ 0 ∨ arg.toNat ≠ 0 := by
  unfold decodeFixed
  split_ifs with h
  · simp [h]
  · simp only [Except.error.injEq, exists_eq', true_iff]
    bv_omega

theorem decodeRreg_error (sel : BitVec 4) (arg : Byte) :
    (∃ e, decodeRreg sel arg = .error e) ↔ 4 ≤ sel.toNat ∨ arg.toNat ≠ 0 := by
  have high : sel.extractLsb' 2 2 ≠ 0#2 ↔ 4 ≤ sel.toNat := by decide +revert
  unfold decodeRreg
  split_ifs with hhigh harg
  · exact iff_of_true ⟨_, rfl⟩ (.inl (high.1 hhigh))
  · exact iff_of_true ⟨_, rfl⟩ (.inr (by bv_omega))
  · rw [high] at hhigh
    rw [not_not] at harg
    simp [hhigh, harg]

theorem decodeSetter_error (nc : Config.NCodes) (sel : BitVec 4) (arg : Byte) :
    (∃ e, decodeSetter nc sel arg = .error e) ↔
      sel.toNat = 15 ∨ ∃ f : BitField, f.id.toNat = sel.toNat ∧ nc.of f ≤ arg.toNat := by
  unfold decodeSetter
  split
  · next hnone =>
    rw [(ofId_none sel).1 hnone]
    exact iff_of_true ⟨_, rfl⟩ (.inl rfl)
  · next f hf =>
    have named : sel.toNat ≠ 15 := fun h15 => by
      rw [(ofId_none sel).2 (BitVec.eq_of_toNat_eq h15)] at hf
      cases hf
    have only : ∀ g : BitField, g.id.toNat = sel.toNat → g = f := fun g hg => by
      rw [BitVec.toNat_inj] at hg
      rw [← hg, ofId_id] at hf
      exact Option.some.inj hf
    split_ifs with hlegal
    · rw [legalCode_iff] at hlegal
      refine iff_of_false (fun ⟨e, he⟩ => by cases he) ?_
      rintro (h15 | ⟨g, hg, hcode⟩)
      · exact named h15
      · rw [only g hg] at hcode
        omega
    · rw [legalCode_iff] at hlegal
      exact iff_of_true ⟨_, rfl⟩ (.inr ⟨f, by rw [id_of_ofId sel f hf], not_lt.1 hlegal⟩)

/-- Settles O4: `OP` chooses the decoder, and each decoder refuses its part of the list. -/
theorem invalidWordsAreTheListedOnes : Obligations.InvalidWordsAreTheListedOnes := by
  intro nc w
  have opIs : ∀ n : BitVec 4, requestOp w = n ↔ w.toNat / 4096 = n.toNat := fun n => by
    rw [← BitVec.toNat_inj, requestOp_toNat]
  unfold decodeRequest
  simp only [opIs, BitVec.reduceToNat]
  split_ifs with hop hop hop hop hop hop
  case pos | pos | pos | pos =>
    rw [decodeFixed_error, requestSel_toNat, requestArg_toNat]
    simp [hop]
  · rw [decodeRreg_error, requestSel_toNat, requestArg_toNat]
    simp [hop]
  · rw [decodeSetter_error, requestSel_toNat, requestArg_toNat]
    simp [hop]
  · exact iff_of_true ⟨_, rfl⟩ (.inl (by omega))

end Sys2Proof.Machine
end

section
/-! Decoder and encoder together (30_encoding.md R63, R69, R70, R76), and the word of an operation
placed for the next step (log entry 11). -/

namespace Sys2Proof.Machine

/-- Settles O1: an F-REG byte carries its two operands, a request word its three parts, and the
fifteen setters are one family. -/
theorem decodeEncodeRoundTrip : Obligations.DecodeEncodeRoundTrip := by
  intro nc i h
  cases i with
  | cmdReset | cmdStart | cmdPowerdown | cmdRdata => rfl
  | cmdRreg addr count =>
    obtain ⟨haddr, hcount⟩ := commandByte_operands 0b0010#4 h
    rw [encode, decode, decodeCommand_rreg (commandByte_nibble _ addr count), haddr, hcount]
  | cmdWreg addr count =>
    obtain ⟨haddr, hcount⟩ := commandByte_operands 0b0100#4 h
    rw [encode, decode, decodeCommand_wreg (commandByte_nibble _ addr count), haddr, hcount]
  | reset | start | powerdown | rdata => rfl
  | rreg r => cases r <;> rfl
  | setfMux code => exact decode_setter (f := .mux) h
  | setfPgaGain code => exact decode_setter (f := .pgaGain) h
  | setfPgaBypass code => exact decode_setter (f := .pgaBypass) h
  | setfDr code => exact decode_setter (f := .dr) h
  | setfMode code => exact decode_setter (f := .mode) h
  | setfCm code => exact decode_setter (f := .cm) h
  | setfTs code => exact decode_setter (f := .ts) h
  | setfBcs code => exact decode_setter (f := .bcs) h
  | setfVref code => exact decode_setter (f := .vref) h
  | setfFilter code => exact decode_setter (f := .filter) h
  | setfPsw code => exact decode_setter (f := .psw) h
  | setfIdac code => exact decode_setter (f := .idac) h
  | setfI1mux code => exact decode_setter (f := .i1mux) h
  | setfI2mux code => exact decode_setter (f := .i2mux) h
  | setfDrdym code => exact decode_setter (f := .drdym) h

open Laws.MatchesRow in
/-- The word of a well-formed operation selects its row, whichever of the 26 it is. -/
theorem row_selects_encode (i : Instr) : Statement i :=
  Instr.rec cmdReset cmdStart cmdPowerdown cmdRdata cmdRreg cmdWreg
    reset start powerdown rdata rreg
    setfMux setfPgaGain setfPgaBypass setfDr setfMode setfCm setfTs setfBcs
    setfVref setfFilter setfPsw setfIdac setfI1mux setfI2mux setfDrdym i

theorem decode_ok {nc : Config.NCodes} {c : CodeWord} {i : Instr} (h : decode nc c = .ok i) :
    i.wf nc = true ∧ encode i = c := by
  cases c with
  | command b =>
    obtain ⟨hwf, henc⟩ := decodeCommand_ok h
    exact ⟨hwf nc, henc⟩
  | request w => exact decodeRequest_ok h

/-- Settles O2: what decodes is well formed and encodes back, so its word selects its row. -/
theorem decodedWordsEncodeBack : Obligations.DecodedWordsEncodeBack := by
  intro nc c i h
  obtain ⟨hwf, henc⟩ := decode_ok h
  exact ⟨hwf, henc, by rw [← henc]; exact row_selects_encode i nc hwf⟩

/-- A row's bits that are the word of a well-formed operation decode to it. -/
theorem decodeTableWord_of_encode {nbits w : Nat} {i : Instr}
    (hwf : i.wf Config.ncodesDefault = true) (henc : encode i = CodeWord.ofTable nbits w) :
    decodeTableWord nbits w = some i := by
  rw [decodeTableWord, ← henc, decodeEncodeRoundTrip Config.ncodesDefault i hwf]

/-- Settles O3: each word but the last is the word of its operation; field id 15 names no field. -/
theorem specWordsDecode : Obligations.SpecWordsDecode :=
  ⟨decodeTableWord_of_encode rfl rfl, decodeTableWord_of_encode rfl rfl,
    decodeTableWord_of_encode rfl rfl, decodeTableWord_of_encode rfl rfl,
    decodeTableWord_of_encode rfl rfl, decodeTableWord_of_encode rfl rfl,
    decodeTableWord_of_encode rfl rfl, decodeTableWord_of_encode rfl rfl,
    decodeTableWord_of_encode rfl rfl, decodeTableWord_of_encode rfl rfl,
    decodeTableWord_of_encode rfl rfl, rfl⟩

/-! ### A word placed for the next step -/

theorem ofTable_request (w : RequestWord) : CodeWord.ofTable 16 w.toNat = .request w := by
  simp [CodeWord.ofTable]

theorem ofTable_command (b : Byte) : CodeWord.ofTable 8 b.toNat = .command b := by
  simp [CodeWord.ofTable]

/-- The step after an event was placed meets that event, with `BUSY = 0`. -/
theorem step_placeNext (e : EnvEvent) (s : State) :
    step (placeNext e s) = onEvent e { s with busy := .idle } :=
  step_of_events_cons (placeNext_events s e)

/-- A command byte is placed as a use of the CMD port that produces it (41_command_encoder.md R118
(b)), and the use of that port is the wire row. -/
theorem eventOf_command {b : Byte} {i : Instr} (h : decodeCommand b = .ok i) :
    ∃ c, eventOf (.command b) = .port c ∧ c.instr? = some i := by
  obtain ⟨c, hc, hi⟩ : ∃ c, portOfCommand i = some c ∧ c.instr? = some i := by
    unfold decodeCommand at h
    split_ifs at h <;> cases h <;> exact ⟨_, rfl, rfl⟩
  exact ⟨c, by simp only [eventOf, h, hc], hi⟩

/-- Settles O39: the placed word decodes to its operation, by the round trip, and is run. -/
theorem placedWordRuns : Obligations.PlacedWordRuns := by
  intro i s hwf
  have roundTrip : decode s.ncodes (encode i) = .ok i := decodeEncodeRoundTrip s.ncodes i hwf
  refine ⟨fun w henc => ?_, fun b henc => ?_⟩
  · have hdec : decodeRequest s.ncodes w = .ok i := by rw [henc] at roundTrip; exact roundTrip
    rw [State.withFetchWord, ofTable_request, eventOf, step_placeNext]
    simp only [onEvent, onRequest, runRequest, hdec]
    rfl
  · have hdec : decodeCommand b = .ok i := by rw [henc] at roundTrip; exact roundTrip
    obtain ⟨c, hevent, hi⟩ := eventOf_command hdec
    rw [State.withFetchWord, ofTable_command, hevent, step_placeNext]
    simp only [onEvent, onPort, hi]

end Sys2Proof.Machine
end

section
/-! The register byte as its fields, and the bit-level response (30_encoding.md R66, R72). -/

namespace Sys2Proof.Machine

/-- A decoded field, shifted back to its place, is the byte under the field's mask (40_bitfield.md
R81, R82). -/
theorem masked_shift_back (f : BitField) (b : Byte) :
    ((b &&& f.mask) >>> f.off) <<< f.off = b &&& f.mask := by
  ext i hi
  by_cases low : i < f.off
  · simp [BitField.mask, low]
  · have back : f.off + (i - f.off) = i := by omega
    simp [low, back, BitVec.getLsbD_eq_getElem hi]

/-- The masks of a register's fields cover every bit but the reserved one (10_state.md R23). -/
theorem union_of_masks (r : Reg) :
    (BitField.all.filter fun f => f.reg = r).foldl (fun u f => u ||| f.mask) 0#8 =
      if r = .config3 then 0xFE#8 else 0xFF#8 := by
  cases r <;> decide

theorem and_union_of_masks {r : Reg} {b : Byte} (h : r = .config3 → b.getLsbD 0 = false) :
    b &&& (if r = .config3 then 0xFE#8 else 0xFF#8) = b := by
  split_ifs with hr
  · have hb := h hr
    clear h
    decide +revert
  · exact BitVec.and_allOnes

/-- Settles O13: each field adds the byte's bits under its mask, and the masks cover it. -/
theorem registerByteIsTheOrOfItsFields : Obligations.RegisterByteIsTheOrOfItsFields := by
  intro r b h
  have start : some 0#8 = some (b &&& 0#8) := by rw [BitVec.and_zero]
  rw [start, List.foldl_hom (fun u => some (b &&& u)) (g₁ := fun u f => u ||| f.mask),
    union_of_masks, and_union_of_masks h]
  intro u f
  simp only [decodeField, ofId_id, masked_shift_back, BitVec.and_or_distrib_left]

/-- Settles O58: a response is `Ok` with its data, or one of the two errors. -/
theorem responseSignalsTable : Obligations.ResponseSignalsTable := by
  refine ⟨rfl, fun v => ?_, fun _ => rfl, fun _ => rfl, rfl, fun r => ?_⟩
  · rw [Response.signals, Payload.data, BitVec.setWidth_eq_append (by decide)]
    rfl
  · cases r with
    | ok v => exact (by decide : (0#2) ≠ 3#2)
    | err e =>
      cases e with
      | transportError e => exact (by decide : (1#2) ≠ 3#2)
      | invalidArgument => exact (by decide : (2#2) ≠ 3#2)

end Sys2Proof.Machine
end

section
/-! The bit-field codec (40_bitfield.md R80 to R89, R105): the masked operations bit by bit, the
four functions on a named field, and the laws of an update. -/

namespace Sys2Proof.Machine

/-! ### The masked operations -/

/-- `APPLY_FIELD` chooses between its two bytes bit by bit, by the mask (40_bitfield.md R85). -/
@[simp] theorem getElem_applyField (b m x : Byte) (i : Nat) (hi : i < 8) :
    (applyField b m x)[i] = if m[i] then x[i] else b[i] := by
  cases hm : m[i] <;> simp [applyField, hm]

/-- Where every bit to be set lies inside the mask, the second masking of R85 does nothing. -/
theorem applyField_of_inside {m x : Byte} (h : x &&& m = x) (b : Byte) :
    applyField b m x = (b &&& ~~~m) ||| x := by
  rw [applyField, h]

theorem applyField_inside_mask (b m x : Byte) : applyField b m x &&& m = x &&& m := by
  ext i hi
  cases hm : m[i] <;> simp [hm]

theorem applyField_outside_mask (b m x : Byte) : applyField b m x &&& ~~~m = b &&& ~~~m := by
  ext i hi
  cases hm : m[i] <;> simp [hm]

/-- The last write to a mask wins (40_bitfield.md R86 (d)). -/
theorem applyField_applyField_same (b m x y : Byte) :
    applyField (applyField b m x) m y = applyField b m y := by
  ext i hi
  cases hm : m[i] <;> simp [hm]

theorem getElem_of_disjoint {m n : Byte} (h : m &&& n = 0#8) {i : Nat} {hi : i < 8}
    (hm : m[i] = true) : n[i] = false := by
  have bit : (m &&& n)[i] = false := by rw [h, BitVec.getElem_zero]
  simpa [hm] using bit

/-- An update under one mask is not seen under a disjoint one (40_bitfield.md R86 (e)). -/
theorem applyField_and_disjoint {m n : Byte} (h : m &&& n = 0#8) (b x : Byte) :
    applyField b m x &&& n = b &&& n := by
  ext i hi
  cases hm : m[i]
  · simp [hm]
  · simp [getElem_of_disjoint h hm]

/-- Updates under disjoint masks commute (40_bitfield.md R86 (e)). -/
theorem applyField_comm {m n : Byte} (h : m &&& n = 0#8) (b x y : Byte) :
    applyField (applyField b m x) n y = applyField (applyField b n y) m x := by
  ext i hi
  cases hm : m[i]
  · simp [hm]
  · simp [hm, getElem_of_disjoint h hm]

theorem and_eq_self_of_and_not_eq_zero {x m : Byte} (h : x &&& ~~~m = 0#8) : x &&& m = x := by
  ext i hi
  cases hx : x[i]
  · simp [hx]
  · simpa [hx] using getElem_of_disjoint h hx

/-- Settles O8: the equations are the definitions, and the frame is `applyField_outside_mask`. -/
theorem maskedOperations : Obligations.MaskedOperations := fun byte mask bits =>
  ⟨rfl, rfl, rfl, rfl, applyField_outside_mask byte mask bits⟩

/-! ### The functions on a named field -/

theorem fieldMask_field (f : BitField) : fieldMask f.id = some f.mask := by
  rw [fieldMask, ofId_id]

theorem encodeBits_legal {nc : Config.NCodes} {f : BitField} {code : Byte}
    (h : code.toNat < nc.of f) : encodeBits nc f.id code = some (code <<< f.off) := by
  simp only [encodeBits, ofId_id, (legalCode_iff nc f code).2 h, if_true]

theorem encodeBits_illegal {nc : Config.NCodes} {f : BitField} {code : Byte}
    (h : nc.of f ≤ code.toNat) : encodeBits nc f.id code = none := by
  simp only [encodeBits, ofId_id, legalCode_iff, Nat.not_lt.2 h, if_false]

theorem decodeField_field (f : BitField) (b : Byte) :
    decodeField f.id b = some ((b &&& f.mask) >>> f.off) := by
  rw [decodeField, ofId_id]

theorem decodeField_congr {f : BitField} {b c : Byte} (h : b &&& f.mask = c &&& f.mask) :
    decodeField f.id b = decodeField f.id c := by
  rw [decodeField_field, decodeField_field, h]

theorem updateField_legal {nc : Config.NCodes} {f : BitField} {code : Byte}
    (h : code.toNat < nc.of f) (b : Byte) :
    updateField nc f.id code b = some (applyField b f.mask (code <<< f.off)) := by
  rw [updateField_field, if_pos ((legalCode_iff nc f code).2 h)]

theorem updateField_illegal {nc : Config.NCodes} {f : BitField} {code : Byte}
    (h : nc.of f ≤ code.toNat) (b : Byte) : updateField nc f.id code b = none := by
  rw [updateField_field, if_neg (by rw [legalCode_iff]; omega)]

/-- An update that answers was given a legal code, and answers the field cleared and the code put in
its place (40_bitfield.md R105). -/
theorem updateField_some {nc : Config.NCodes} {f : BitField} {code b u : Byte}
    (h : updateField nc f.id code b = some u) :
    code.toNat < nc.of f ∧ u = applyField b f.mask (code <<< f.off) := by
  rw [updateField_field] at h
  split_ifs at h with hlegal
  exact ⟨(legalCode_iff nc f code).1 hlegal, (Option.some.inj h).symm⟩

/-- Settles O6: fifteen rows and the one id without a field, read off the table by evaluation. -/
theorem fieldTable : Obligations.FieldTable := by
  refine ⟨?_, rfl⟩
  simp only [fieldMask_field]
  rfl

/-! ### Codes and their place in the byte -/

theorem off_add_width_le (f : BitField) : f.off + f.width ≤ 8 := by
  cases f <;> decide

/-- `NCODES[f] <= 2^W[f]`: a legal code fits its field (40_bitfield.md R81). -/
theorem fits_of_legal {nc : Config.NCodes} {f : BitField} {code : Byte}
    (h : code.toNat < nc.of f) : code.toNat < 2 ^ f.width :=
  Nat.lt_of_lt_of_le h (ncodes_le nc f)

/-- A code that fits its field loses no bit on the way to its place. -/
theorem toNat_shifted {f : BitField} {code : Byte} (h : code.toNat < 2 ^ f.width) :
    (code <<< f.off).toNat = code.toNat * 2 ^ f.off := by
  have inByte : code.toNat * 2 ^ f.off < 2 ^ 8 := calc
    code.toNat * 2 ^ f.off < 2 ^ f.width * 2 ^ f.off :=
      Nat.mul_lt_mul_of_pos_right h (Nat.two_pow_pos f.off)
    _ = 2 ^ (f.off + f.width) := by rw [← Nat.pow_add, Nat.add_comm]
    _ ≤ 2 ^ 8 := Nat.pow_le_pow_right (by decide) (off_add_width_le f)
  rw [BitVec.toNat_shiftLeft, Nat.shiftLeft_eq, Nat.mod_eq_of_lt inByte]

/-- Settles O9: a legal code fits its field, so its place in the byte holds all of it. -/
theorem encodeBitsLegalCodesOnly : Obligations.EncodeBitsLegalCodesOnly := by
  intro nc n code
  split
  next hn => exact ⟨(ofId_none n).1 hn, by rw [encodeBits, hn]⟩
  next f hf =>
    obtain rfl := id_of_ofId n f hf
    refine ⟨encodeBits_illegal, fun h => ⟨encodeBits_legal h, ?_, ?_⟩⟩
    · exact toNat_shifted (fits_of_legal h)
    · exact shifted_in_mask f code (fits_of_legal h)

/-- The mask brought down to bit 0 keeps the low `W[f]` bits. -/
theorem toNat_mask_ushiftRight_off (f : BitField) :
    (f.mask >>> f.off).toNat = 2 ^ f.width - 1 := by
  cases f <;> rfl

/-- A decoded field is the number in its bits (40_bitfield.md R82). -/
theorem toNat_decoded (f : BitField) (b : Byte) :
    ((b &&& f.mask) >>> f.off).toNat = b.toNat / 2 ^ f.off % 2 ^ f.width := by
  rw [BitVec.ushiftRight_and_distrib, BitVec.toNat_and, toNat_mask_ushiftRight_off,
    Nat.and_two_pow_sub_one_eq_mod, BitVec.toNat_ushiftRight, Nat.shiftRight_eq_div_pow]

/-- Settles O10: what is decoded is the byte under the mask, and a byte with the same bits there
decodes alike. -/
theorem decodeFieldReadsTheMask : Obligations.DecodeFieldReadsTheMask := by
  intro n byte
  split
  next hn => exact ⟨(ofId_none n).1 hn, by rw [decodeField, hn]⟩
  next f hf =>
    obtain rfl := id_of_ofId n f hf
    refine ⟨_, decodeField_field f byte, toNat_decoded f byte, fun other => ?_⟩
    have merged : (byte &&& f.mask) ||| (other &&& ~~~f.mask) = applyField other f.mask byte :=
      BitVec.or_comm _ _
    rw [merged, decodeField_congr (applyField_inside_mask other f.mask byte), decodeField_field]

/-! ### The laws of an update -/

/-- A code written to its field is read back (40_bitfield.md R86 (c)). -/
theorem decodeField_applyField {f : BitField} {code : Byte} (h : code.toNat < 2 ^ f.width)
    (b : Byte) : decodeField f.id (applyField b f.mask (code <<< f.off)) = some code := by
  rw [decodeField_field, decode_applyField f b code h]

/-- Settles O11, from the rules of `applyField` under one mask. -/
theorem updateFieldLaws : Obligations.UpdateFieldLaws := by
  intro nc f c d b
  refine ⟨fun h => updateField_illegal h b, fun hc => ?_⟩
  have fits := fits_of_legal hc
  have inside := and_eq_self_of_and_not_eq_zero (shifted_in_mask f c fits)
  have readBack := decodeField_applyField fits b
  refine ⟨_, updateField_legal hc b, applyField_of_inside inside b, ?_, readBack, ?_, fun hd => ?_⟩
  · rw [updateField_legal hc, applyField_applyField_same]
  · rw [← readBack, decodeField_congr (applyField_inside_mask b f.mask (c <<< f.off))]
  · rw [updateField_legal hd, updateField_legal hd, applyField_applyField_same]

/-- Settles O12: the masks of two fields of one register are disjoint, so their updates do not
meet. -/
theorem siblingFieldsAreIndependent : Obligations.SiblingFieldsAreIndependent := by
  intro nc f g c d b u v hfg hreg hu hv
  have disjoint : f.mask &&& g.mask = 0#8 := fieldMasksAreDisjoint.1 f g hfg hreg
  obtain ⟨hc, rfl⟩ := updateField_some hu
  obtain ⟨hd, rfl⟩ := updateField_some hv
  refine ⟨decodeField_congr (applyField_and_disjoint disjoint _ _), ?_, fun h3 => ?_⟩
  · rw [updateField_legal hd, updateField_legal hc, applyField_comm disjoint]
  · exact applyField_outside _ _ _ 0 (by decide) (mask_config3_bit0 f h3)

/-! ### Clearing, then setting -/

/-- Clearing `low` and then setting `high` clears both and sets `high`. -/
theorem setHigh_setLow (b low high : Byte) :
    setHigh (setLow b low) high = (b &&& ~~~(low ||| high)) ||| high := by
  ext i hi
  cases hh : high[i] <;> simp [setHigh, setLow, hh]

/-- A mask that contains `high` is recovered from what it keeps of the byte of all ones. -/
theorem mask_of_kept_ones {m high : Byte} (h : high &&& m = high) :
    ~~~(~~~m ||| high) ||| high = m := by
  ext i hi
  cases hh : high[i]
  · simp [hh]
  · have inMask : (high &&& m)[i] = true := by rw [h, hh]
    simpa [hh] using inMask

/-- Settles O14: the two sides differ only in the mask they clear, `low OR high` or `MASK[f]`, and
the byte of all ones shows which bits those are. -/
theorem clearThenSetIsApplyField : Obligations.ClearThenSetIsApplyField := by
  intro f low high _ hhigh _
  have inside : high &&& f.mask = high := and_eq_self_of_and_not_eq_zero hhigh
  have covered : high &&& (low ||| high) = high := by
    ext i hi
    cases hh : high[i] <;> simp [hh]
  simp only [setHigh_setLow, applyField_of_inside inside]
  constructor
  · intro h
    have ones : ~~~(low ||| high) ||| high = ~~~f.mask ||| high := by
      simpa only [BitVec.allOnes_and] using h (BitVec.allOnes 8)
    rw [← mask_of_kept_ones inside, ← ones, mask_of_kept_ones covered]
  · intro h b
    rw [h]

end Sys2Proof.Machine
end

section
/-! The command encoder (41_command_encoder.md R110 to R118): the byte of each command, what its port
shows, and the laws of the six functions. -/

namespace Sys2Proof.Machine

/-! ### The byte of a register transfer -/

/-- The three parts of an F-REG byte as a number (30_encoding.md R60, R63). -/
theorem toNat_commandByte (op : BitVec 4) {addr count : Byte}
    (h : commandDomain addr count = true) :
    (commandByte op addr count).toNat = 16 * op.toNat + 4 * addr.toNat + (count.toNat - 1) := by
  obtain ⟨haddr, hlow, hhigh⟩ := (commandDomain_iff addr count).1 h
  have hcount : (count - 1#8).toNat = count.toNat - 1 := by bv_omega
  rw [commandByte, BitVec.toNat_append, BitVec.toNat_append,
    ← Nat.shiftLeft_add_eq_or_of_lt (BitVec.isLt _), ← Nat.shiftLeft_add_eq_or_of_lt (BitVec.isLt _),
    BitVec.extractLsb'_toNat, BitVec.extractLsb'_toNat, hcount]
  simp only [Nat.shiftLeft_eq, Nat.shiftRight_zero]
  omega

/-- Inside the domain the three operands of the OR occupy bits of their own, so the OR is the
concatenation. -/
theorem or_parts_eq_commandByte (op : BitVec 4) {addr count : Byte}
    (h : commandDomain addr count = true) :
    (op ++ 0#4) ||| (addr <<< 2) ||| (count - 1#8) = commandByte op addr count := by
  obtain ⟨haddr, hcount⟩ := commandDomain_values addr count h
  revert op
  obtain rfl | rfl | rfl | rfl := haddr <;> obtain rfl | rfl | rfl | rfl := hcount <;> decide

theorem encRreg_inside {addr count : Byte} (h : commandDomain addr count = true) :
    encRreg addr count = some (commandByte 0b0010#4 addr count) := by
  rw [encRreg, if_pos h, ← or_parts_eq_commandByte 0b0010#4 h]
  rfl

theorem encWreg_inside {addr count : Byte} (h : commandDomain addr count = true) :
    encWreg addr count = some (commandByte 0b0100#4 addr count) := by
  rw [encWreg, if_pos h, ← or_parts_eq_commandByte 0b0100#4 h]
  rfl

theorem encRreg_outside {addr count : Byte} (h : ¬ commandDomain addr count = true) :
    encRreg addr count = none := if_neg h

theorem encWreg_outside {addr count : Byte} (h : ¬ commandDomain addr count = true) :
    encWreg addr count = none := if_neg h

theorem not_commandDomain {addr count : Byte}
    (h : 3 < addr.toNat ∨ count.toNat < 1 ∨ 4 < count.toNat) :
    ¬ commandDomain addr count = true := by
  rw [commandDomain_iff]
  omega

/-! ### What the ports show -/

/-- A wire row runs as the use of its CMD port, in every state: the outputs go into the record and
nothing else changes (log entries 5 and 12). -/
theorem exec_of_portOfCommand {i : Instr} {c : PortCall} (h : portOfCommand i = some c) (s : State) :
    exec i s = .next { s with trace := .portShown c (c.output s.ncodes) :: s.trace } := by
  cases i with
  | cmdReset | cmdStart | cmdPowerdown | cmdRdata | cmdRreg | cmdWreg => cases h; rfl
  | _ => cases h

/-- Settles O15: the four ports without operands. -/
theorem fixedCommandPorts : Obligations.FixedCommandPorts := fun s =>
  ⟨exec_of_portOfCommand (c := .encReset) rfl s, exec_of_portOfCommand (c := .encStart) rfl s,
    exec_of_portOfCommand (c := .encPowerdown) rfl s, exec_of_portOfCommand (c := .encRdata) rfl s⟩

/-- Settles O16: the port shows `ENC_RREG`, which is the F-REG byte inside the domain. -/
theorem rregCommandPort : Obligations.RregCommandPort := by
  intro addr count s
  have shown := exec_of_portOfCommand (i := .cmdRreg addr count) rfl s
  rw [PortCall.output] at shown
  constructor
  · intro outside
    rw [shown, encRreg_outside (not_commandDomain outside)]
  · intro inside
    have domain := (commandDomain_iff addr count).2 inside
    exact ⟨_, toNat_commandByte 0b0010#4 domain, by rw [shown, encRreg_inside domain]⟩

/-- Settles O17: the port shows `ENC_WREG`, which is the F-REG byte inside the domain. -/
theorem wregCommandPort : Obligations.WregCommandPort := by
  intro addr count s
  have shown := exec_of_portOfCommand (i := .cmdWreg addr count) rfl s
  rw [PortCall.output] at shown
  constructor
  · intro outside
    rw [shown, encWreg_outside (not_commandDomain outside)]
  · intro inside
    have domain := (commandDomain_iff addr count).2 inside
    exact ⟨_, toNat_commandByte 0b0100#4 domain, by rw [shown, encWreg_inside domain]⟩

/-! ### Injectivity -/

/-- The port of a well-formed wire row shows the row's code word. -/
theorem output_eq_codeWord {nc : Config.NCodes} {i : Instr} {c : PortCall} (hi : i.wf nc = true)
    (hc : portOfCommand i = some c) :
    ∃ b : Byte, c.output nc = .byte (some b) ∧ encode i = .command b := by
  cases i with
  | cmdReset | cmdStart | cmdPowerdown | cmdRdata => cases hc; exact ⟨_, rfl, rfl⟩
  | cmdRreg addr count =>
    cases hc
    exact ⟨_, congrArg PortOut.byte (encRreg_inside hi), rfl⟩
  | cmdWreg addr count =>
    cases hc
    exact ⟨_, congrArg PortOut.byte (encWreg_inside hi), rfl⟩
  | _ => cases hc

/-- What decodes back is encoded injectively. -/
theorem encode_injective {nc : Config.NCodes} {i j : Instr} (hi : i.wf nc = true)
    (hj : j.wf nc = true) (h : encode i = encode j) : i = j := by
  have decoded := decodeEncodeRoundTrip nc i hi
  rw [h, decodeEncodeRoundTrip nc j hj] at decoded
  exact (Except.ok.inj decoded).symm

/-- Settles O18: equal outputs are equal code words, and a code word decodes to one operation. -/
theorem commandEncoderIsInjective : Obligations.CommandEncoderIsInjective := by
  intro nc i j c d hi hj hc hd
  obtain ⟨b, shownI, wordI⟩ := output_eq_codeWord hi hc
  obtain ⟨b', shownJ, wordJ⟩ := output_eq_codeWord hj hd
  refine ⟨⟨b, shownI, wordI⟩, fun same => encode_injective hi hj ?_⟩
  rw [shownI, shownJ] at same
  cases same
  rw [wordI, wordJ]

/-! ### The laws of the encoder -/

/-- Two bits of a byte, shifted down and masked. -/
theorem shift_and_three (b : Byte) (k : Nat) :
    (b >>> k) &&& 3#8 = (b.extractLsb' k 2).setWidth 8 := by
  apply BitVec.eq_of_toNat_eq
  rw [BitVec.toNat_and, BitVec.toNat_ushiftRight, BitVec.toNat_setWidth, BitVec.extractLsb'_toNat]
  have low : (b.toNat >>> k) &&& (3#8 : Byte).toNat = b.toNat >>> k % 4 :=
    Nat.and_two_pow_sub_one_eq_mod _ 2
  rw [low]
  omega

/-- The address operand as 41_command_encoder.md R118 (b) writes it. -/
theorem commandAddr_eq_shift_and (b : Byte) : commandAddr b = (b >>> 2) &&& 3#8 :=
  (shift_and_three b 2).symm

/-- The count operand as 41_command_encoder.md R118 (b) writes it. -/
theorem commandCount_eq_and_add_one (b : Byte) : commandCount b = (b &&& 3#8) + 1#8 := by
  rw [commandCount, ← shift_and_three, BitVec.ushiftRight_zero]

/-- `ENC_RREG` inverts the operands of a byte with its opcode nibble. -/
theorem encRreg_operands {b : Byte} (h : b.extractLsb' 4 4 = 0b0010#4) :
    encRreg (commandAddr b) (commandCount b) = some b := by
  rw [encRreg_inside (commandDomain_of_byte b), ← h, commandByte_of_parts]

/-- `ENC_WREG` inverts the operands of a byte with its opcode nibble. -/
theorem encWreg_operands {b : Byte} (h : b.extractLsb' 4 4 = 0b0100#4) :
    encWreg (commandAddr b) (commandCount b) = some b := by
  rw [encWreg_inside (commandDomain_of_byte b), ← h, commandByte_of_parts]

/-- The opcode nibbles of the two transfers differ by 0110, and the operands stand in other bits. -/
theorem encWreg_eq_encRreg_xor (addr count : Byte) :
    encWreg addr count = (encRreg addr count).map (· ^^^ 0x60#8) := by
  by_cases h : commandDomain addr count = true
  · rw [encWreg_inside h, encRreg_inside h, Option.map_some]
    have bits : (0x60#8 : Byte) = 0b0110#4 ++ 0#2 ++ 0#2 := rfl
    rw [bits, commandByte, commandByte, BitVec.xor_append, BitVec.xor_append, BitVec.xor_zero,
      BitVec.xor_zero]
    rfl
  · rw [encWreg_outside h, encRreg_outside h, Option.map_none]

/-- No command byte has its top bit set: the greatest is 0x4F. -/
theorem bit7_of_decodeCommand {b : Byte} (h : (decodeCommand b).isOk = true) :
    b.getLsbD 7 = false := by
  have small : b.toNat < 128 := by
    obtain rfl | rfl | rfl | rfl | rreg | wreg := (commandBytesAreThirtySix b).1 h
    iterate 4 decide
    · omega
    · omega
  exact BitVec.msb_eq_false_iff_two_mul_lt.2 (show 2 * b.toNat < 2 ^ 8 by omega)

/-- Settles O19: a byte of a range has the opcode nibble of its transfer, so its operands give it
back; the two transfers differ in that nibble alone. -/
theorem commandEncoderLaws : Obligations.CommandEncoderLaws := by
  simp only [Obligations.CommandEncoderLaws, ← commandAddr_eq_shift_and,
    ← commandCount_eq_and_add_one]
  refine ⟨fun b range => encRreg_operands ((nibble_eq_iff b _).2 ?_),
    fun b range => encWreg_operands ((nibble_eq_iff b _).2 ?_),
    fun a _ n _ => encWreg_eq_encRreg_xor a n, fun r => ?_, fun b => bit7_of_decodeCommand⟩
  · rw [BitVec.toNat_ofNat]
    omega
  · rw [BitVec.toNat_ofNat]
    omega
  · cases r <;> exact ⟨encRreg_reg _, encWreg_reg _⟩

end Sys2Proof.Machine
end

section
/-! The sample decoder (42_sample_decoder.md R120 to R123): the raw value is its three bytes side by
side, and sign extension puts eight copies of its top bit before it. -/

namespace Sys2Proof.Machine

/-! ### The raw value of three bytes -/

/-- Each byte lands in bits of its own, so the OR is the concatenation (42_sample_decoder.md R120). -/
theorem assemble24_eq_append (b0 b1 b2 : Byte) : assemble24 b0 b1 b2 = b0 ++ b1 ++ b2 := by
  have parts : (b0 ++ b1 ++ b2).setWidth 24 = assemble24 b0 b1 b2 :=
    BitVec.setWidth_append_append_eq_shiftLeft_setWidth_or
  rw [← parts, BitVec.setWidth_eq]

theorem toNat_assemble24 (b0 b1 b2 : Byte) :
    (assemble24 b0 b1 b2).toNat = b0.toNat * 65536 + b1.toNat * 256 + b2.toNat := by
  rw [assemble24_eq_append, BitVec.toNat_append, BitVec.toNat_append,
    ← Nat.shiftLeft_add_eq_or_of_lt b1.isLt, ← Nat.shiftLeft_add_eq_or_of_lt b2.isLt]
  simp only [Nat.shiftLeft_eq]
  omega

/-- Every byte triple gives a raw value of its own. -/
theorem assemble24_inj {b0 b1 b2 c0 c1 c2 : Byte} :
    assemble24 b0 b1 b2 = assemble24 c0 c1 c2 ↔ b0 = c0 ∧ b1 = c1 ∧ b2 = c2 := by
  simp only [← BitVec.toNat_inj, toNat_assemble24]
  omega

/-- Every raw value is the one of its three bytes. -/
theorem assemble24_surjective (raw : Raw24) : ∃ b0 b1 b2, assemble24 b0 b1 b2 = raw := by
  refine ⟨raw.extractLsb' 16 8, raw.extractLsb' 8 8, raw.extractLsb' 0 8, ?_⟩
  have upper : raw.extractLsb' 16 8 ++ raw.extractLsb' 8 8 = raw.extractLsb' 8 16 :=
    BitVec.extractLsb'_append_extractLsb'_eq_extractLsb' rfl
  rw [assemble24_eq_append, upper]
  exact BitVec.extractLsb'_append_extractLsb'

/-- The sign bit of the raw value is the top bit of the first byte. -/
theorem assemble24_lt_half (b0 b1 b2 : Byte) :
    (assemble24 b0 b1 b2).toNat < 8388608 ↔ b0.toNat < 128 := by
  rw [toNat_assemble24]
  omega

/-! ### Sign extension -/

/-- The two branches of `SEXT24` put a byte of ones or of zeros before the raw value. -/
theorem sext24_eq_append (raw : Raw24) :
    sext24 raw = (if raw.msb then BitVec.allOnes 8 else 0#8) ++ raw := by
  have zeros : raw.setWidth 32 = 0#8 ++ raw := BitVec.setWidth_eq_append (by decide)
  have ones : (0xFF000000#32 : Word32) = BitVec.allOnes 8 ++ 0#24 := rfl
  rw [sext24, zeros, ones, BitVec.or_append, BitVec.or_zero, BitVec.zero_or,
    BitVec.msb_eq_getLsbD_last]
  split <;> rfl

/-- `SEXT24` is the library's sign extension (42_sample_decoder.md R121). -/
theorem sext24_eq_signExtend (raw : Raw24) : sext24 raw = raw.signExtend 32 := by
  rw [sext24_eq_append, BitVec.signExtend_eq_append_of_le (by decide)]
  rfl

@[simp] theorem setWidth_sext24 (raw : Raw24) : (sext24 raw).setWidth 24 = raw := by
  rw [sext24_eq_append, BitVec.setWidth_append_eq_right]

@[simp] theorem toInt_sext24 (raw : Raw24) : (sext24 raw).toInt = raw.toInt := by
  rw [sext24_eq_signExtend, BitVec.toInt_signExtend_of_le (by decide)]

theorem sext24_injective : Function.Injective sext24 :=
  Function.LeftInverse.injective setWidth_sext24

/-- The two's-complement value of a raw value. -/
theorem toInt_raw24 (raw : Raw24) :
    raw.toInt =
      if raw.toNat < 8388608 then (raw.toNat : Int) else (raw.toNat : Int) - 16777216 := by
  rw [BitVec.toInt_eq_toNat_cond]
  split <;> split <;> omega

/-! ### The sample -/

/-- A sample has the signed value of its raw value. -/
theorem toInt_decodeSample (b0 b1 b2 : Byte) :
    (decodeSample b0 b1 b2).toInt = (assemble24 b0 b1 b2).toInt :=
  toInt_sext24 _

/-- Settles O21: the raw value is read as a 24-bit two's-complement number, whose sign bit is the
top bit of the first byte. -/
theorem sampleIsTwosComplement : Obligations.SampleIsTwosComplement := by
  refine ⟨toNat_assemble24, fun raw => ⟨?_, setWidth_sext24 raw⟩, fun b0 b1 b2 => ⟨rfl, ?_⟩⟩
  · rw [toInt_sext24, toInt_raw24]
  · rw [toInt_decodeSample, toInt_raw24]
    simp only [assemble24_lt_half]
    rw [toNat_assemble24]

/-- Every sample is in the range of a 24-bit two's-complement number. -/
theorem decodeSample_range (b0 b1 b2 : Byte) :
    -8388608 ≤ (decodeSample b0 b1 b2).toInt ∧ (decodeSample b0 b1 b2).toInt ≤ 8388607 := by
  rw [toInt_decodeSample]
  exact ⟨BitVec.le_toInt _, Int.le_of_lt_add_one BitVec.toInt_lt⟩

/-- Every number of the range is the sample of the bytes of its 24-bit pattern. -/
theorem exists_decodeSample_eq {n : Int} (low : -8388608 ≤ n) (high : n ≤ 8388607) :
    ∃ b0 b1 b2 : Byte, (decodeSample b0 b1 b2).toInt = n := by
  obtain ⟨b0, b1, b2, bytes⟩ := assemble24_surjective (BitVec.ofInt 24 n)
  refine ⟨b0, b1, b2, ?_⟩
  rw [toInt_decodeSample, bytes]
  exact BitVec.toInt_ofInt_eq_self (by decide) low (Int.lt_add_one_of_le high)

theorem decodeSample_neg_iff (b0 b1 b2 : Byte) :
    (decodeSample b0 b1 b2).toInt < 0 ↔ 0x80 ≤ b0.toNat := by
  have sign := assemble24_lt_half b0 b1 b2
  rw [toInt_decodeSample, BitVec.toInt_neg_iff]
  omega

/-- Settles O22: no bit of the three bytes is lost, every 24-bit pattern occurs, and the sign is the
top bit of the first byte. -/
theorem sampleDecoderLaws : Obligations.SampleDecoderLaws := by
  refine ⟨fun b0 b1 b2 c0 c1 c2 same => assemble24_inj.1 (sext24_injective same),
    fun n => ⟨fun ⟨low, high⟩ => exists_decodeSample_eq low high, ?_⟩, decodeSample_neg_iff⟩
  rintro ⟨b0, b1, b2, rfl⟩
  exact decodeSample_range b0 b1 b2

end Sys2Proof.Machine
end

section
/-! The operations of one transaction on an idle block (43_operations.md R130 to R135), for the three
things the environment can do: answer with success, answer with an error, or not answer in this step
(log entry 3). -/

namespace Sys2Proof.Machine

/-! ### Handing a transaction over -/

theorem transact_ok {f : Flight} {s : State} {b0 b1 b2 : Byte} {rest : List EnvEvent}
    (he : s.events = .answer (.ok b0 b1 b2) :: rest) :
    transact f s = succeeded f.steps (receivedBy f.steps [b0, b1, b2]) (f.payload b0 b1 b2) rest
      (f.onSuccess s) := by
  rw [transact_answer f s _ rest he, complete_ok]
  cases f <;> rfl

theorem transact_err {f : Flight} {s : State} {e : Config.E} {rest : List EnvEvent}
    (he : s.events = .answer (.err e) :: rest) :
    transact f s = failed f.steps e rest (f.onFailure s) := by
  rw [transact_answer f s _ rest he, complete_err]
  cases f <;> rfl

/-- What an operation answers that hands over the transaction of `f` with these steps. -/
theorem exec_of_transact {i : Instr} {f : Flight} {s : State} {steps : List XStep}
    (runs : exec i s = .next (transact f s)) (hsteps : f.steps = steps) :
    (∀ b0 b1 b2 rest, s.events = .answer (.ok b0 b1 b2) :: rest →
      exec i s = .next (succeeded steps (receivedBy steps [b0, b1, b2]) (f.payload b0 b1 b2) rest
        (f.onSuccess s))) ∧
    (∀ e rest, s.events = .answer (.err e) :: rest →
      exec i s = .next (failed steps e rest (f.onFailure s))) ∧
    ((∀ a rest, s.events ≠ .answer a :: rest) → exec i s = .next (awaiting f steps s)) := by
  subst hsteps
  refine ⟨fun b0 b1 b2 rest he => ?_, fun e rest he => ?_, fun he => ?_⟩
  · rw [runs, transact_ok he]
  · rw [runs, transact_err he]
  · rw [runs, transact_wait f s he]
    rfl

/-! ### RESET, START and POWERDOWN -/

/-- Settles O23: RESET is the transaction of the one byte 0x06. -/
theorem resetOperation : Obligations.ResetOperation := fun s idle =>
  exec_of_transact (i := .reset) (whenIdle_idle (transact .reset) s idle) rfl

/-- Settles O24: START is the transaction of the one byte 0x08. -/
theorem startOperation : Obligations.StartOperation := fun s idle =>
  exec_of_transact (i := .start) (whenIdle_idle (transact .start) s idle) rfl

/-- Settles O25: POWERDOWN is the transaction of the one byte 0x02. -/
theorem powerdownOperation : Obligations.PowerdownOperation := fun s idle =>
  exec_of_transact (i := .powerdown) (whenIdle_idle (transact .powerdown) s idle) rfl

/-! ### RDATA and RREG -/

/-- The sample is the library's sign extension of the three bytes side by side. -/
theorem decodeSample_eq_signExtend (b0 b1 b2 : Byte) :
    decodeSample b0 b1 b2 = (b0 ++ b1 ++ b2 : BitVec 24).signExtend 32 := by
  rw [decodeSample, sext24_eq_signExtend, assemble24_eq_append]

/-- Settles O26: RDATA is the transaction of the byte 0x10 and three bytes read. -/
theorem rdataOperation : Obligations.RdataOperation := by
  intro s idle
  simp only [← decodeSample_eq_signExtend]
  exact exec_of_transact (i := .rdata) (whenIdle_idle (transact .rdata) s idle) rfl

/-- A register read sends the RREG byte of its register and reads one byte (43_operations.md R135). -/
theorem rreg_steps (r : Reg) :
    ∃ cmd : Byte, (Flight.rreg r).steps = [.write [cmd], .read 1] ∧
      cmd.toNat = 0x20 + 4 * r.addr.toNat := by
  cases r <;> exact ⟨_, rfl, rfl⟩

/-- Settles O27: the one read step takes the first byte that arrives, which is answered raw. -/
theorem rregOperation : Obligations.RregOperation := by
  intro r s idle
  obtain ⟨cmd, hsteps, hcmd⟩ := rreg_steps r
  exact ⟨cmd, hcmd,
    exec_of_transact (i := .rreg r) (whenIdle_idle (transact (.rreg r)) s idle) hsteps⟩

end Sys2Proof.Machine
end

section
/-! The setters on an idle block (43_operations.md R136 to R151): the general setter for a legal and for
an illegal code, and the rule of each of the fifteen fields as its table row. -/

namespace Sys2Proof.Machine

/-! ### The general setter -/

theorem setField_of_updateField {f : BitField} {code new : Byte} {s : State}
    (h : updateField s.ncodes f.id code (s.img.get f.reg) = some new) :
    setField f code s = transact (.setf f.reg new) s := by
  simp only [setField, h]

theorem setField_legal {f : BitField} {code : Byte} {s : State} (h : code.toNat < s.ncodes.of f) :
    setField f code s =
      transact (.setf f.reg (applyField (s.img.get f.reg) f.mask (code <<< f.off))) s :=
  setField_of_updateField (updateField_legal h _)

theorem setField_illegal {f : BitField} {code : Byte} {s : State}
    (h : s.ncodes.of f ≤ code.toNat) : setField f code s = reject s := by
  simp only [setField, updateField_illegal h]

theorem exec_setter_idle {f : BitField} {code : Byte} {s : State} (idle : s.busy = .idle) :
    exec (.setter f code) s = .next (setField f code s) := by
  rw [exec_setter, whenIdle_idle _ s idle]

/-- `OPCOUNT` is 1: a setter sends `ENC_WREG` of its register and one byte, then its new byte. -/
theorem setf_steps_of_encWreg {r : Reg} {cmd : Byte} (hcmd : encWreg r.addrByte 1#8 = some cmd)
    (new : Byte) : (Flight.setf r new).steps = [.write [cmd], .write [new]] := by
  have command : encWreg r.addrByte Config.opCount = some cmd := hcmd
  rw [Flight.steps, command, Option.toList_some]

/-- Settles O32: the byte in flight is the one `UPDATE_FIELD` answers. -/
theorem setterCommitsTheUpdatedByte : Obligations.SetterCommitsTheUpdatedByte := by
  intro f code new cmd s idle hnew hcmd
  have runs : exec (.setter f code) s = .next (transact (.setf f.reg new) s) := by
    rw [exec_setter_idle idle, setField_of_updateField hnew]
  obtain ⟨acknowledged, refused, -⟩ := exec_of_transact runs (setf_steps_of_encWreg hcmd new)
  exact ⟨acknowledged, refused⟩

/-! ### The rule of each field -/

/-- A legal code fits its field, so the update clears the field's bits and sets the code's. -/
theorem applyField_legal {nc : Config.NCodes} {f : BitField} {code : Byte}
    (h : code.toNat < nc.of f) (b : Byte) :
    applyField b f.mask (code <<< f.off) = (b &&& ~~~f.mask) ||| (code <<< f.off) :=
  applyField_of_inside
    (and_eq_self_of_and_not_eq_zero (shifted_in_mask f code (fits_of_legal h))) b

/-- Every setter follows the rule with its field's register, mask and offset. -/
theorem setterRule_field (f : BitField) {cmd : Byte} (hcmd : encWreg f.reg.addrByte 1#8 = some cmd) :
    SetterRule (fun code => exec (.setter f code)) (·.of f) f.reg cmd (~~~f.mask) f.off
      (staleBit f.reg) := by
  intro code s idle
  refine ⟨fun illegal => ?_, fun legal => ⟨_, rfl, ?_⟩⟩
  · simp only [exec_setter_idle idle, setField_illegal illegal]
    exact ⟨fun rest he => congrArg _ (reject_deliver s rest he),
      fun he => congrArg _ (reject_wait s he)⟩
  · rw [← applyField_legal legal]
    refine exec_of_transact ?_ (setf_steps_of_encWreg hcmd _)
    rw [exec_setter_idle idle, setField_legal legal]

/-- Settles O28: the rows of MUX, PGA_GAIN and PGA_BYPASS in the field table. -/
theorem settersOfConfig0 : Obligations.SettersOfConfig0 :=
  ⟨setterRule_field .mux rfl, setterRule_field .pgaGain rfl, setterRule_field .pgaBypass rfl⟩

/-- Settles O29: the rows of DR, MODE, CM, TS and BCS in the field table. -/
theorem settersOfConfig1 : Obligations.SettersOfConfig1 :=
  ⟨setterRule_field .dr rfl, setterRule_field .mode rfl, setterRule_field .cm rfl,
    setterRule_field .ts rfl, setterRule_field .bcs rfl⟩

/-- Settles O30: the rows of VREF, FILTER, PSW and IDAC in the field table. -/
theorem settersOfConfig2 : Obligations.SettersOfConfig2 :=
  ⟨setterRule_field .vref rfl, setterRule_field .filter rfl, setterRule_field .psw rfl,
    setterRule_field .idac rfl⟩

/-- Settles O31: the rows of I1MUX, I2MUX and DRDYM in the field table. -/
theorem settersOfConfig3 : Obligations.SettersOfConfig3 :=
  ⟨setterRule_field .i1mux rfl, setterRule_field .i2mux rfl, setterRule_field .drdym rfl⟩

end Sys2Proof.Machine
end

section
/-! The image after acknowledged setters (43_operations.md R152 (a) to (d)): each is an update of one
field (`Image.update`), and the laws of R152 are laws of that update. -/

namespace Sys2Proof.Machine

/-- The image with one field updated and every other bit kept. -/
def Image.update (m : Image) (f : BitField) (code : Byte) : Image :=
  m.set f.reg (applyField (m.get f.reg) f.mask (code <<< f.off))

theorem get_update_same (m : Image) (f : BitField) (code : Byte) :
    (m.update f code).get f.reg = applyField (m.get f.reg) f.mask (code <<< f.off) :=
  get_set_same m f.reg _

theorem get_update_other (m : Image) (f : BitField) (code : Byte) {q : Reg} (h : q ≠ f.reg) :
    (m.update f code).get q = m.get q :=
  get_set_other m f.reg q _ h

/-- An acknowledged setter leaves the image with its field updated (43_operations.md R136). -/
theorem exec_setter_acknowledged {f : BitField} {code b0 b1 b2 : Byte} {s : State}
    {rest : List EnvEvent} (idle : s.busy = .idle) (legal : code.toNat < s.ncodes.of f)
    (he : s.events = .answer (.ok b0 b1 b2) :: rest) :
    ∃ t, exec (.setter f code) s = .next t ∧ t.img = s.img.update f code := by
  refine ⟨_, exec_setter_idle idle, ?_⟩
  rw [setField_legal legal, transact_ok he]
  rfl

/-- The field that was updated decodes to its code. -/
theorem decodeField_update_same {f : BitField} {code : Byte} (fits : code.toNat < 2 ^ f.width)
    (m : Image) : decodeField f.id ((m.update f code).get f.reg) = some code := by
  rw [get_update_same, decodeField_applyField fits]

/-- Every other field decodes as before: it is in another register, or its mask is disjoint. -/
theorem decodeField_update_other {f g : BitField} (h : f ≠ g) (m : Image) (code : Byte) :
    decodeField g.id ((m.update f code).get g.reg) = decodeField g.id (m.get g.reg) := by
  by_cases hreg : g.reg = f.reg
  · have disjoint : f.mask &&& g.mask = 0#8 := fieldMasksAreDisjoint.1 f g h hreg.symm
    rw [hreg, get_update_same, decodeField_congr (applyField_and_disjoint disjoint _ _)]
  · rw [get_update_other m f code hreg]

/-- Settles O35, from the two rules of decoding after an update. -/
theorem setterSetsItsFieldAlone : Obligations.SetterSetsItsFieldAlone := by
  intro f g code b0 b1 b2 s rest idle legal he
  obtain ⟨t, runs, himg⟩ := exec_setter_acknowledged idle legal he
  refine ⟨t, runs, ?_, fun other => ?_⟩
  · rw [himg, decodeField_update_same (fits_of_legal legal)]
  · rw [himg, decodeField_update_other other.symm]

/-! ### Two setters -/

/-- Of two updates of one field the last wins. -/
theorem update_update_same (m : Image) (f : BitField) (c d : Byte) :
    (m.update f c).update f d = m.update f d := by
  refine image_ext_get _ _ fun q => ?_
  by_cases hq : q = f.reg
  · rw [hq, get_update_same, get_update_same, get_update_same, applyField_applyField_same]
  · simp only [get_update_other _ _ _ hq]

/-- Updates of two fields commute: they write different registers, or disjoint bits of one. -/
theorem update_comm {f g : BitField} (h : f ≠ g) (m : Image) (c d : Byte) :
    (m.update f c).update g d = (m.update g d).update f c := by
  refine image_ext_get _ _ fun q => ?_
  by_cases hf : q = f.reg <;> by_cases hg : q = g.reg
  · subst hf
    have disjoint : f.mask &&& g.mask = 0#8 := fieldMasksAreDisjoint.1 f g h hg
    rw [get_update_same, hg, get_update_same, get_update_same, ← hg, get_update_same]
    exact applyField_comm disjoint _ _ _
  · subst hf
    rw [get_update_other _ _ _ hg, get_update_same, get_update_same, get_update_other _ _ _ hg]
  · subst hg
    rw [get_update_other _ _ _ hf, get_update_same, get_update_same, get_update_other _ _ _ hf]
  · simp only [get_update_other _ _ _ hf, get_update_other _ _ _ hg]

/-- What an acknowledged setter leaves of the image, and of the setting of `NCODES`. -/
theorem afterSetter_img {f : BitField} {code : Byte} {s t : State}
    (legal : code.toNat < s.ncodes.of f) (after : AfterSetter f code s t) :
    t.img = s.img.update f code ∧ t.ncodes = s.ncodes := by
  obtain ⟨b0, b1, b2, rest, h⟩ := after
  obtain ⟨-, hncodes, -⟩ := exec_environmentFrame h
  obtain ⟨u, hu, himg⟩ := exec_setter_acknowledged (f := f) (code := code)
    (s := { s with busy := .idle, events := .answer (.ok b0 b1 b2) :: rest }) rfl legal rfl
  rw [hu] at h
  cases h
  exact ⟨himg, hncodes⟩

/-- Settles O36: both orders are two updates of one image, under one setting of `NCODES`. -/
theorem settersCommute : Obligations.SettersCommute := by
  intro f g c d s t u v w hc hd hst htu hsv hvw
  obtain ⟨imgT, ncodesT⟩ := afterSetter_img hc hst
  obtain ⟨imgV, ncodesV⟩ := afterSetter_img hd hsv
  obtain ⟨imgU, -⟩ := afterSetter_img (by rwa [ncodesT]) htu
  obtain ⟨imgW, -⟩ := afterSetter_img (by rwa [ncodesV]) hvw
  constructor
  · intro h
    rw [imgU, imgT, imgW, imgV, update_comm h]
  · rintro rfl
    rw [imgU, imgT, imgV, update_update_same]

end Sys2Proof.Machine
end

section
/-! A failed operation (43_operations.md R152 (f), 60_exceptions.md R162, R164): every well-formed
request hands a transaction over, and no failure change touches the image. -/

namespace Sys2Proof.Machine

/-- An idle block runs every well-formed request as one transaction: no legal code is rejected. -/
theorem exec_wf_transacts {i : Instr} {s : State} (idle : s.busy = .idle)
    (hwf : i.wf s.ncodes = true) (request : portOfCommand i = none) :
    ∃ f, exec i s = .next (transact f s) := by
  have setter : ∀ (f : BitField) (code : Byte), legalCode s.ncodes f code = true →
      ∃ op, whenIdle (setField f code) s = .next (transact op s) := fun f code legal =>
    ⟨_, by rw [whenIdle_idle _ s idle, setField_legal ((legalCode_iff _ f code).1 legal)]⟩
  cases i with
  | cmdReset | cmdStart | cmdPowerdown | cmdRdata | cmdRreg | cmdWreg => cases request
  | reset | start | powerdown | rdata | rreg => exact ⟨_, whenIdle_idle _ s idle⟩
  | _ => exact setter _ _ hwf

/-- Settles O37: the failure change keeps the image, and the response carries the error. -/
theorem failedTransactionLeavesImage : Obligations.FailedTransactionLeavesImage := by
  intro i s e rest idle hwf request he
  obtain ⟨f, runs⟩ := exec_wf_transacts idle hwf request
  exact ⟨failed f.steps e rest (f.onFailure s), _, by rw [runs, transact_err he],
    onFailure_img s f, rfl, rfl, rfl⟩

end Sys2Proof.Machine
end

section
/-! The step on a request word, on the answer to the transaction in flight and on a rejected request
(43_operations.md R130, R154; 10_state.md R15), and that no step and no operation stops the block
(R155). -/

namespace Sys2Proof.Machine

/-! ### A request word at an idle block -/

theorem step_of_request {s : State} {w : RequestWord} {rest : List EnvEvent}
    (he : s.events = .request w :: rest) (idle : s.busy = .idle) :
    step s = runRequest w { s with events := rest } := by
  simp only [step_of_events_cons he, onEvent, onRequest, idle]

theorem step_of_invalid_request {s : State} {w : RequestWord} {rest : List EnvEvent}
    {e : DecodeError} (he : s.events = .request w :: rest) (idle : s.busy = .idle)
    (hdec : decodeRequest s.ncodes w = .error e) :
    step s = .next (reject { s with events := rest, trace := .accepted w :: s.trace }) := by
  simp only [step_of_request he idle, runRequest, hdec]
  rfl

/-- Settles O38: an idle block accepts the word, and decoding it chooses the operation. -/
theorem stepRunsTheDecodedRequest : Obligations.StepRunsTheDecodedRequest := by
  intro s w rest i he idle hdec
  rw [decode] at hdec
  simp only [step_of_request he idle, runRequest, hdec]
  rfl

/-! ### A rejected request -/

/-- With no transaction in flight an answer is taken and ignored (log entry 9). -/
theorem step_of_unasked_answer {s : State} {a : Answer} {rest : List EnvEvent}
    (he : s.events = .answer a :: rest) (unasked : ∀ f, s.busy ≠ .inFlight f) :
    step s = .next { s with events := rest } := by
  cases hb : s.busy with
  | inFlight f => exact absurd hb (unasked f)
  | idle | rejecting => simp only [step_of_events_cons he, onEvent, onAnswer, hb]

theorem onDeliver_rejecting {s : State} (due : s.busy = .rejecting) :
    onDeliver s = .next (rejected s.events s) := by
  simp only [onDeliver, due]
  rfl

/-- While a rejection is due, an event that neither delivers it nor resets the block is only taken. -/
theorem step_keeps_rejecting {s : State} {e : EnvEvent} {rest : List EnvEvent}
    (due : s.busy = .rejecting) (he : s.events = e :: rest) (notDeliver : e ≠ .deliver)
    (notReset : e ≠ .blockReset) :
    ∃ t, step s = .next t ∧ SameBlock s t ∧ t.events = rest ∧
      respondedCount t.trace = respondedCount s.trace := by
  have busy : s.busy ≠ .idle := by simp [due]
  cases e with
  | request w =>
    obtain ⟨turnedAway, -⟩ := busyBlockTurnsRequestsAway s busy
    exact ⟨_, turnedAway w rest he, ⟨rfl, rfl, rfl⟩, rfl, rfl⟩
  | answer a =>
    exact ⟨_, step_of_unasked_answer he (by simp [due]), ⟨rfl, rfl, rfl⟩, rfl, rfl⟩
  | port c => exact ⟨_, step_of_port he, ⟨rfl, rfl, rfl⟩, rfl, rfl⟩
  | deliver => exact absurd rfl notDeliver
  | blockReset => exact absurd rfl notReset

/-- Settles O40: the acceptance ends in `reject`, and from there only the delivery, or the absence of
any event, brings the response. -/
theorem invalidRequestIsAnswered : Obligations.InvalidRequestIsAnswered := by
  refine ⟨fun s w rest e he idle hdec => ?_, fun s due => ⟨by rw [due]; rfl, ?_, ?_, ?_⟩⟩
  · rw [step_of_invalid_request he idle hdec]
    exact ⟨fun tail hrest => congrArg _ (reject_deliver _ tail hrest),
      fun hrest => congrArg _ (reject_wait _ hrest)⟩
  · intro he
    have quiet : step s = onDeliver s := by simp only [step, he, onQuiet]
    rw [quiet, onDeliver_rejecting due, he]
  · intro rest he
    rw [step_of_events_cons he]
    exact onDeliver_rejecting due
  · intro e rest he
    exact step_keeps_rejecting due he

/-! ### The answer to the transaction in flight -/

theorem step_of_answer {s : State} {f : Flight} {a : Answer} {rest : List EnvEvent}
    (flight : s.busy = .inFlight f) (he : s.events = .answer a :: rest) :
    step s = .next (complete f a { s with events := rest }) := by
  simp only [step_of_events_cons he, onEvent, onAnswer, flight]

/-- Only RESET and the setters have changes, on either answer (60_exceptions.md R164). -/
theorem no_changes_of_other {f : Flight} (notReset : f ≠ .reset)
    (notSetter : ∀ r new, f ≠ .setf r new) (s : State) : f.onSuccess s = s ∧ f.onFailure s = s := by
  cases f with
  | reset => exact absurd rfl notReset
  | setf r new => exact absurd rfl (notSetter r new)
  | _ => exact ⟨rfl, rfl⟩

/-- Only the loads answer data (10_state.md R27). -/
theorem payload_other {f : Flight} (notRdata : f ≠ .rdata) (notRreg : ∀ r, f ≠ .rreg r)
    (b0 b1 b2 : Byte) : f.payload b0 b1 b2 = .nothing := by
  cases f with
  | rdata => exact absurd rfl notRdata
  | rreg r => exact absurd rfl (notRreg r)
  | _ => rfl

/-- Settles O42: the step is `complete`, whose changes are the two columns of the effects table. -/
theorem answerCompletesTheOperation : Obligations.AnswerCompletesTheOperation := by
  intro s f rest flight
  constructor
  · intro b0 b1 b2 he
    have completed := step_of_answer flight he
    rw [complete_ok] at completed
    refine ⟨_, completed, rfl, rfl, ?reset, ?setter, ?other,
      _, rfl, ?rdata, ?rreg, fun notRdata notRreg => payload_other notRdata notRreg b0 b1 b2⟩
    case reset => rintro rfl; exact ⟨rfl, rfl⟩
    case setter => rintro r new rfl; exact ⟨rfl, rfl⟩
    case other =>
      intro notReset notSetter
      rw [(no_changes_of_other notReset notSetter _).1]
      exact ⟨rfl, rfl⟩
    case rdata => rintro rfl; rfl
    case rreg => rintro r rfl; rfl
  · intro e he
    have completed := step_of_answer flight he
    rw [complete_err] at completed
    refine ⟨_, completed, rfl, rfl, rfl, ?reset, ?setter,
      ?other, rfl⟩
    case reset => rintro rfl; rfl
    case setter => rintro r new rfl; rfl
    case other =>
      intro notReset notSetter
      rw [(no_changes_of_other notReset notSetter _).2]

/-! ### Nothing stops the block -/

theorem exec_next (i : Instr) (s : State) : ∃ t, exec i s = .next t := by
  obtain ⟨c, -, h⟩ | ⟨-, ⟨-, h⟩ | ⟨-, h⟩ | ⟨-, f, h, -⟩⟩ := exec_cases i s <;> exact ⟨_, h⟩

theorem runRequest_next (w : RequestWord) (s : State) : ∃ t, runRequest w s = .next t := by
  unfold runRequest
  split
  · exact exec_next _ _
  · exact ⟨_, rfl⟩

theorem onEvent_next (e : EnvEvent) (s : State) : ∃ t, onEvent e s = .next t := by
  cases e with
  | request w =>
    simp only [onEvent, onRequest]
    split
    · exact runRequest_next w s
    · exact ⟨_, rfl⟩
    · exact ⟨_, rfl⟩
  | answer a =>
    simp only [onEvent, onAnswer]
    split <;> exact ⟨_, rfl⟩
  | port c => exact ⟨_, onPort_eq c s⟩
  | deliver => obtain ⟨-, h⟩ | ⟨-, h⟩ := onDeliver_cases s <;> exact ⟨_, h⟩
  | blockReset => exact ⟨_, rfl⟩

/-- With no event the step is that of a delivery, so every step is the meeting of one event. -/
theorem step_next (s : State) : ∃ t, step s = .next t := by
  unfold step
  split
  · exact onEvent_next .deliver s
  · exact onEvent_next _ _

theorem move_ncodes {s t : State} (move : Move s t) : t.ncodes = s.ncodes := by
  cases move with
  | complete f a => cases a <;> simp only [complete_ok, complete_err]
  | _ => rfl

theorem step_ncodes {s t : State} (h : step s = .next t) : t.ncodes = s.ncodes :=
  step_keeps (P := fun u => u.ncodes = s.ncodes) (fun _ _ move hu => (move_ncodes move).trans hu)
    rfl h

/-- Settles O47: every event and every operation has a next state, and no move of the block changes
the setting. -/
theorem nothingStopsTheBlock : Obligations.NothingStopsTheBlock := by
  refine ⟨fun s => ?_, fun i s => ?_⟩
  · obtain ⟨t, h⟩ := step_next s
    exact ⟨t, h, step_ncodes h⟩
  · obtain ⟨t, h⟩ := exec_next i s
    obtain ⟨-, hncodes, -⟩ := exec_environmentFrame h
    exact ⟨t, h, hncodes⟩

end Sys2Proof.Machine
end

section
/-! The block while a transaction is unanswered (60_exceptions.md R174): nothing but an answer or block
reset ends the wait. -/

namespace Sys2Proof.Machine

/-- Where no rejection is due there is nothing to deliver (log entry 19). -/
theorem onDeliver_not_due {s : State} (notDue : s.busy ≠ .rejecting) : onDeliver s = .next s := by
  obtain ⟨due, -⟩ | ⟨-, h⟩ := onDeliver_cases s
  · exact absurd due notDue
  · exact h

/-- With no event the step is that of a delivery. -/
theorem step_of_no_event {s : State} (he : s.events = []) : step s = onDeliver s := by
  simp only [step, he, onQuiet]

/-- While a transaction is in flight, an event that neither answers it nor resets the block leaves
image, flags and `BUSY`, and brings no response. -/
theorem step_keeps_inFlight {s : State} {f : Flight} {e : EnvEvent} {rest : List EnvEvent}
    (flight : s.busy = .inFlight f) (he : s.events = e :: rest) (notAnswer : ∀ a, e ≠ .answer a)
    (notReset : e ≠ .blockReset) :
    ∃ t, step s = .next t ∧ SameBlock s t ∧ t.events = rest ∧
      respondedCount t.trace = respondedCount s.trace := by
  cases e with
  | request w =>
    obtain ⟨turnedAway, -⟩ := busyBlockTurnsRequestsAway s (by simp [flight])
    exact ⟨_, turnedAway w rest he, ⟨rfl, rfl, rfl⟩, rfl, rfl⟩
  | answer a => exact absurd rfl (notAnswer a)
  | port c => exact ⟨_, step_of_port he, ⟨rfl, rfl, rfl⟩, rfl, rfl⟩
  | deliver =>
    have nothingDue : onDeliver { s with events := rest } = .next { s with events := rest } :=
      onDeliver_not_due (by simp [flight])
    exact ⟨_, (step_of_events_cons he).trans nothingDue, ⟨rfl, rfl, rfl⟩, rfl, rfl⟩
  | blockReset => exact absurd rfl notReset

/-- Settles O43: with no event there is no response to deliver, and any event but the two excluded
ones leaves the block waiting. -/
theorem unansweredTransactionWaits : Obligations.UnansweredTransactionWaits := by
  intro s f flight
  refine ⟨fun he => ?_, fun e rest => step_keeps_inFlight flight⟩
  rw [step_of_no_event he, onDeliver_not_due (by simp [flight])]

end Sys2Proof.Machine
end

section
/-! The converter's lifecycle (60_exceptions.md R170), event by event: three events have the same
successor in every state, the others have one in the states named here only. -/

namespace Sys2Proof.Machine

theorem next?_powerUp (l : Lifecycle) : l.next? .powerUp = some .uninitialized := by
  cases l <;> rfl

theorem next?_resetAccepted (l : Lifecycle) : l.next? .resetAccepted = some .uninitialized := by
  cases l <;> rfl

theorem next?_powerdown (l : Lifecycle) : l.next? .powerdown = some .idle := by
  cases l <;> rfl

theorem next?_registerWrite (l : Lifecycle) :
    l.next? .registerWrite = if l = .uninitialized then some .configured else none := by
  cases l <;> rfl

theorem next?_start_continuous (l : Lifecycle) :
    l.next? (.start .continuous) =
      if l = .configured ∨ l = .idle then some .converting else none := by
  cases l <;> rfl

theorem next?_start_single (l : Lifecycle) :
    l.next? (.start .single) =
      if l = .configured ∨ l = .idle then some .singleShotPending else none := by
  cases l <;> rfl

theorem next?_conversionConsumed (l : Lifecycle) :
    l.next? .conversionConsumed = if l = .singleShotPending then some .idle else none := by
  cases l <;> rfl

/-- Settles O60: each event selects its clause of the table, which is its equation. -/
theorem lifecycleTransitions : Obligations.LifecycleTransitions := by
  intro l m e
  cases e with
  | powerUp => simp [next?_powerUp, eq_comm]
  | resetAccepted => simp [next?_resetAccepted, eq_comm]
  | powerdown => simp [next?_powerdown, eq_comm]
  | registerWrite => simp [next?_registerWrite, eq_comm]
  | conversionConsumed => simp [next?_conversionConsumed, eq_comm]
  | start mode =>
    cases mode with
    | continuous => simp [next?_start_continuous, eq_comm]
    | single => simp [next?_start_single, eq_comm]

end Sys2Proof.Machine
end

section
/-! Block reset (70_reset_and_hazards.md R181): the event is met in every state alike, whatever
request is under way. -/

namespace Sys2Proof.Machine

theorem step_of_blockReset {s : State} {rest : List EnvEvent} (he : s.events = .blockReset :: rest) :
    step s = .next (blockReset { s with events := rest }) := by
  rw [step_of_events_cons he, onEvent]

/-- Block reset with the values it sets written out (10_state.md R24). -/
theorem blockReset_eq (s : State) :
    blockReset s = { s with
      img := ⟨0x00#8, 0x00#8, 0x00#8, 0x00#8⟩
      stale := 0b0000#4
      busy := .idle
      trace := .blockReset s.busy :: s.trace } := rfl

/-- Settles O44: the step is `blockReset`, which overwrites `BUSY` without asking what is under way. -/
theorem blockResetEvent : Obligations.BlockResetEvent := by
  intro s rest he
  rw [step_of_blockReset he, blockReset_eq]

end Sys2Proof.Machine
end
